-- ==== Sys2Proof/Word.lean ====
section
/-! DEFINITION. The data the block works on (00_scope.md R8) and the form of one command on its port (30_encoding.md R68). -/

namespace Sys2Proof

/-- `u8`: every byte of the block is an unsigned 8-bit value, bit 7 the most significant (R8). -/
abbrev Byte := BitVec 8

/-- `Bytes`: a finite sequence of `u8`, index 0 at the front (R8). Index order is transmission order (20_memory.md R42). -/
abbrev Bytes := List Byte

/-- One typed operand field of a command: "typed fields of the transaction (`u8` values and byte sequences)" (R68). -/
inductive Operand where
  | u8 (b : Byte)
  | bytes (bs : Bytes)
deriving DecidableEq, Repr

/-- A command as the owner issues it: the 8-bit opcode and the operand list beside it (R68). DESIGN CHOICE (log entry 4):
the operands stand in the order in which R69 lists them, as the programs of 95_test_vectors.md write them. -/
structure Command where
  op : Byte
  operands : List Operand
deriving DecidableEq, Repr

end Sys2Proof
end

