-- ==== Sys2Proof/Config.lean ====
section
/-! DEFINITION. The fixed constants (00_scope.md R6), the parameters (R7), and the one value the spec leaves open: the CRC table. -/

namespace Sys2Proof

/-- `SYNC`: the frame's first byte (R6). -/
def SYNC : Byte := 0xA5

/-- `META_LEN`: bytes of a frame that are not payload (R6). -/
abbrev META_LEN : Nat := 4

/-- `MAX_FRAME_LEN`: the largest legal total frame length (R6). -/
abbrev MAX_FRAME_LEN : Nat := 64

/-- `MAX_PAYLOAD = MAX_FRAME_LEN - META_LEN` (R6). -/
abbrev MAX_PAYLOAD : Nat := 60

/-- The parameters of R7, each with the limit the spec sets on it. A configuration is fixed for the machine: no operation
writes it (10_state.md R23, R24). -/
structure Config where
  /-- `CRC8_TABLE`: 256 entries of `u8`, a ROM (10_state.md R24). -/
  crcTable : Byte → Byte
  /-- `CRC8_TABLE[0x00] = 0x00`, the one constraint the spec puts on the entries (40_crc.md R102 item 4). -/
  crcTable_zero : crcTable 0 = 0
  /-- `HDR_MIN`: buffered bytes, the sync byte included, needed before the length byte is read (R7, 42_parser.md R146). -/
  hdrMin : Nat
  /-- Both readings the spec names, 4 and the rejected 5 (92_eei_decisions.md D4), satisfy this. -/
  hdrMin_ge : META_LEN ≤ hdrMin
  /-- `BUF_CAP`: capacity of the parser buffer, `none` for unbounded (R7, 42_parser.md R141). -/
  bufCap : Option Nat
  /-- "`some n` with `n ≥ 63`" (R7). -/
  bufCap_ge : ∀ n, bufCap = some n → 63 ≤ n

/-- FREE VALUE (log entry 1): the entries of this hardware's CRC table. The spec leaves them open (R7, 40_crc.md R102,
92_eei_decisions.md D7); it has no body, so nothing can be proved of a single entry. -/
opaque Config.crcEntry : Byte → Byte

/-- A table from its entries, with entry 0 held at 0x00 as 40_crc.md R102 item 4 requires. -/
def Config.tableOf (entry : Byte → Byte) : Byte → Byte :=
  fun b => if b = 0 then 0 else entry b

end Sys2Proof
end

