-- ==== Sys2Proof/Machine/Operands.lean ====
section
/-! DEFINITION. This hardware's configuration and the byte-sequence primitives of 00_scope.md R8 and R9. -/

namespace Sys2Proof.Machine

/-- This hardware: the CRC table is open (log entry 1), `HDR_MIN = 4` (92_eei_decisions.md D4) and `BUF_CAP = none` (D8). -/
def hw : Config where
  crcTable := Config.tableOf Config.crcEntry
  crcTable_zero := rfl
  hdrMin := 4
  hdrMin_ge := Nat.le_refl 4
  bufCap := none
  bufCap_ge := fun _ h => nomatch h

/-- `s[i]` (R8). The spec reads only indices inside `s`; the 0 beyond the end is never read by a meaning. -/
def byteAt (s : Bytes) (i : Nat) : Byte :=
  s.getD i 0

/-- `s[i..j)`: the bytes at indices `i ≤ k < j` (R8). -/
def slice (s : Bytes) (i j : Nat) : Bytes :=
  (s.drop i).take (j - i)

/-- `find_first(b, s)`: the least index that holds `b`, or none (R9). -/
def findFirst (b : Byte) : Bytes → Option Nat
  | [] => none
  | x :: xs => if x = b then some 0 else (findFirst b xs).map (· + 1)

/-- The length byte of a frame around a payload, `len(payload) + 4` as a `u8` (41_framer.md R121). -/
def lengthByte (payload : Bytes) : Byte :=
  BitVec.ofNat 8 (payload.length + META_LEN)

end Sys2Proof.Machine
end

