-- ==== Sys2Proof/Syntax.lean ====
section
/-! DEFINITION. The seven commands (30_encoding.md R69), one constructor per row of spec/opcode_table.json. -/

namespace Sys2Proof

/-- A decoded command with its typed operands (R69). `drain` and `feed` are pseudo-commands without an opcode (R75): they are
not here but in Machine/Drain.lean. -/
inductive Instr where
  /-- `crc.step acc, b`: one table step (40_crc.md R101). -/
  | crcStep (acc b : Byte)
  /-- `crc8 [data]`: the CRC-8 of a byte sequence (40_crc.md R100). -/
  | crc8 (data : Bytes)
  /-- `encode type_id, [payload]`: build a frame (41_framer.md R121). -/
  | encode (typeId : Byte) (payload : Bytes)
  /-- `decode [frame]`: split a validated frame (41_framer.md R125). -/
  | decodeValidated (frame : Bytes)
  /-- `append [data]`: add bytes at the back of the parser buffer (42_parser.md R140). -/
  | append (data : Bytes)
  /-- `parse`: one attempt to extract a frame (42_parser.md R142). -/
  | tryParseOne
  /-- `reset`: clear the parser buffer (42_parser.md R151). -/
  | reset
deriving DecidableEq, Repr

end Sys2Proof
end

