-- ==== Sys2Proof/Decode.lean ====
section
/-! DEFINITION. Decoding and encoding of commands (30_encoding.md R68, R69, R70, R76). -/

namespace Sys2Proof

/-- The unit a command acts on, `op[7:4]` (R68). -/
inductive BlockUnit where
  | crc
  | framer
  | parser
deriving DecidableEq, Repr

/-- The rows of the opcode table (R69). -/
inductive Opcode where
  | crcStep
  | crc8
  | encode
  | decodeValidated
  | append
  | tryParseOne
  | reset
deriving DecidableEq, Repr

/-- What the command decoder answers. -/
inductive Decoded where
  /-- One of the seven commands with its operands. -/
  | instr (i : Instr)
  /-- A reserved opcode (R70): the step takes fault ILLEGAL_COMMAND. -/
  | reserved (op : Byte)
  /-- A real opcode with an operand list that is not its own (R76): no command of the interface (log entry 4). -/
  | malformed (op : Byte)
deriving DecidableEq, Repr

/-- `op[7:4]` of each unit: `0x0` the CRC generator, `0x1` the framer, `0x2` the stream parser (R68). -/
def unitNibble : BlockUnit → BitVec 4
  | .crc => 0x0
  | .framer => 0x1
  | .parser => 0x2

/-- The unit of a command (R69). -/
def unitOf : Instr → BlockUnit
  | .crcStep _ _ => .crc
  | .crc8 _ => .crc
  | .encode _ _ => .framer
  | .decodeValidated _ => .framer
  | .append _ => .parser
  | .tryParseOne => .parser
  | .reset => .parser

/-- The opcode byte of each row (R69). -/
def opcodeByte : Opcode → Byte
  | .crcStep => 0x01
  | .crc8 => 0x02
  | .encode => 0x10
  | .decodeValidated => 0x11
  | .append => 0x20
  | .tryParseOne => 0x21
  | .reset => 0x2F

/-- All rows of the table. -/
def opcodeRows : List Opcode :=
  [.crcStep, .crc8, .encode, .decodeValidated, .append, .tryParseOne, .reset]

/-- "A decoder selects a command by comparing all 8 bits of `op` (mask `0xFF`)" (R69). -/
def opcodeOf (op : Byte) : Option Opcode :=
  opcodeRows.find? (fun row => opcodeByte row == op)

/-- An operand list of two `u8`. -/
def twoU8 : List Operand → Option (Byte × Byte)
  | [.u8 x, .u8 y] => some (x, y)
  | _ => none

/-- An operand list of one byte sequence. -/
def oneBytes : List Operand → Option Bytes
  | [.bytes bs] => some bs
  | _ => none

/-- An operand list of one `u8` and one byte sequence. -/
def u8AndBytes : List Operand → Option (Byte × Bytes)
  | [.u8 x, .bytes bs] => some (x, bs)
  | _ => none

/-- The empty operand list. -/
def noOperands : List Operand → Option Unit
  | [] => some ()
  | _ => none

/-- The fixed operand list of each command (R69, R76). -/
def instrOf (row : Opcode) (operands : List Operand) : Option Instr :=
  match row with
  | .crcStep => (twoU8 operands).map (fun p => .crcStep p.1 p.2)
  | .crc8 => (oneBytes operands).map .crc8
  | .encode => (u8AndBytes operands).map (fun p => .encode p.1 p.2)
  | .decodeValidated => (oneBytes operands).map .decodeValidated
  | .append => (oneBytes operands).map .append
  | .tryParseOne => (noOperands operands).map (fun _ => .tryParseOne)
  | .reset => (noOperands operands).map (fun _ => .reset)

/-- The command decoder: the opcode check first, then the operands (60_exceptions.md R185). -/
def decode (c : Command) : Decoded :=
  match opcodeOf c.op with
  | none => .reserved c.op
  | some row =>
    match instrOf row c.operands with
    | some i => .instr i
    | none => .malformed c.op

/-- The row of a command. -/
def opcodeFor : Instr → Opcode
  | .crcStep _ _ => .crcStep
  | .crc8 _ => .crc8
  | .encode _ _ => .encode
  | .decodeValidated _ => .decodeValidated
  | .append _ => .append
  | .tryParseOne => .tryParseOne
  | .reset => .reset

/-- The operands of a command, in the order R69 lists them. -/
def operandsFor : Instr → List Operand
  | .crcStep acc b => [.u8 acc, .u8 b]
  | .crc8 data => [.bytes data]
  | .encode typeId payload => [.u8 typeId, .bytes payload]
  | .decodeValidated frame => [.bytes frame]
  | .append data => [.bytes data]
  | .tryParseOne => []
  | .reset => []

/-- The command an owner issues for an instruction (R69). -/
def encode (i : Instr) : Command :=
  { op := opcodeByte (opcodeFor i), operands := operandsFor i }

/-- The operand list of a row with every operand at zero: a `u8` is 0x00 and a byte sequence is empty. -/
def zeroOperands : Opcode → List Operand
  | .crcStep => [.u8 0, .u8 0]
  | .crc8 => [.bytes []]
  | .encode => [.u8 0, .bytes []]
  | .decodeValidated => [.bytes []]
  | .append => [.bytes []]
  | .tryParseOne => []
  | .reset => []

/-- The command whose opcode is the table word `w`, its operands (which the table gives no bits) at zero. -/
def tableCommand (w : Nat) : Command :=
  { op := BitVec.ofNat 8 w
    operands := match opcodeOf (BitVec.ofNat 8 w) with
      | some row => zeroOperands row
      | none => [] }

/-- The instruction the decoder reads from a table word of `nbits` bits: the table gives every row 8 bits, the opcode. -/
def decodeTableWord (nbits w : Nat) : Option Instr :=
  match decode (tableCommand (w % 2 ^ nbits)) with
  | .instr i => some i
  | .reserved _ => none
  | .malformed _ => none

end Sys2Proof
end

