-- ==== Sys2Proof/Machine/State.lean ====
section
/-! DEFINITION. The state of one instance of the block (10_state.md R30), the responses it answers with (30_encoding.md R72 to
R74), and the model faults (60_exceptions.md R183). -/

namespace Sys2Proof.Machine

/-- The model faults of 60_exceptions.md R183, each with the information it records. They are REPORTED IN A RESPONSE: a
faulting command is a next state in which nothing but the response and the fault mark changed (R184), so `exec` and `step`
never answer `Host.Outcome.fault`. Each stands for "no meaning" (R184): safe for a claim that asks for a clear mark
(Sys2Proof/Safety.lean), see log entry 5. -/
inductive Fault where
  /-- Code 1, raised by ENCODE when `len(payload) > 60` (41_framer.md R122); records `len(payload)`. Safe: no frame is claimed. -/
  | encOversize (len : Nat)
  /-- Code 2, raised by DECODE_VALIDATED when not `valid(frame)` (41_framer.md R126); records `len(frame)`. Safe: no result is
  claimed. -/
  | decUnvalidated (len : Nat)
  /-- Code 3, raised by APPEND when a finite BUF_CAP would be exceeded (42_parser.md R141); records `len(buf) + len(data)`.
  Safe: nothing is claimed of the excess bytes. Never raised under the default `BUF_CAP = none`. -/
  | bufOverflow (len : Nat)
  /-- Code 4, raised by the command decoder for a reserved opcode (30_encoding.md R70); records the opcode byte. Safe. -/
  | illegalCommand (op : Byte)
deriving DecidableEq, Repr

/-- What has no next state. -/
inductive Refusal where
  /-- An arm of `exec` that has no meaning yet (none is left). Safe. -/
  | notModelled (mnemonic : String)
  /-- Raised by `step` for a real opcode whose operand list is not the fixed list of 30_encoding.md R69 and R76: such a
  transaction is no command, and the spec says nothing of it (log entry 4). Safe: the machine stops. -/
  | malformedOperands (op : Byte)
deriving DecidableEq, Repr

/-- The six outcomes of TRY_PARSE_ONE (30_encoding.md R72). -/
inductive ParseOutcome where
  | noSync
  | syncShort
  | badLength
  | lenShort
  | crcMismatch
  | success
deriving DecidableEq, Repr

/-- A `(type_id, payload)` pair (41_framer.md R125, 42_parser.md R150). -/
structure Packet where
  typeId : Byte
  payload : Bytes
deriving DecidableEq, Repr

/-- The result fields of a TRY_PARSE_ONE response (30_encoding.md R74): `outcome`, `progress` and `message` always, and the
packet when `message` is set. -/
structure ParseReply where
  outcome : ParseOutcome
  progress : Bool
  message : Bool
  packet : Option Packet
deriving DecidableEq, Repr

/-- The result fields of a completed command, by the "response result" column of 30_encoding.md R69. -/
inductive Result where
  /-- CRC_STEP and CRC8: a `u8`. -/
  | crc (value : Byte)
  /-- ENCODE: the frame. -/
  | frame (bytes : Bytes)
  /-- DECODE_VALIDATED: the pair. -/
  | decoded (packet : Packet)
  /-- APPEND and RESET: no result. -/
  | empty
  /-- TRY_PARSE_ONE. -/
  | parse (reply : ParseReply)
deriving DecidableEq, Repr

/-- One response (30_encoding.md R74): `status = OK` with the result fields, or `status = FAULT(code)` with no result. -/
inductive Response where
  | ok (result : Result)
  | fault (f : Fault)
deriving DecidableEq, Repr

/-- One instance of the block with its command port. -/
structure State where
  /-- The parser buffer, the block's only architectural state (10_state.md R20, R21). -/
  buf : Bytes
  /-- The sticky model fault mark (10_state.md R31); not hardware. -/
  faultMark : Bool
  /-- MODEL'S OWN: the response of the step just made (log entry 3). The block keeps none of it (10_state.md R27): no operation
  reads it, and every step writes it. -/
  response : Option Response
  /-- MODEL'S OWN: the commands the owner issues next, in the order it issues them (20_memory.md R48; log entry 2). -/
  pending : List Command
deriving DecidableEq, Repr

/-- A newly constructed parser (70_reset_and_hazards.md R200): `buf = []` and the mark clear. That no response and no command
stand on the port is the model's choice (log entries 2 and 3). -/
def State.reset : State :=
  { buf := [], faultMark := false, response := none, pending := [] }

end Sys2Proof.Machine
end

