-- ==== Sys2Proof/Machine/Ops.lean ====
section
/-! DEFINITION. The named operations on the state: the buffer, the response, completing a command, and TAKING A MODEL FAULT, the
block's one exceptional event (60_exceptions.md R184). There is no trap entry to model beside it and no return (R187, R188), and
no addressable memory (20_memory.md R40). -/

namespace Sys2Proof.Machine

/-- What a step answers. -/
abbrev StepOutcome := Host.Outcome State Fault Refusal

/-- `buf <- v` (00_scope.md R9). -/
def setBuf (v : Bytes) (s : State) : State :=
  { s with buf := v }

/-- Put a response on the port (30_encoding.md R74). -/
def respond (r : Response) (s : State) : State :=
  { s with response := some r }

/-- Set the model fault mark (10_state.md R31); nothing ever clears it. -/
def setFaultMark (s : State) : State :=
  { s with faultMark := true }

/-- The command completed: `status = OK` with its result fields (30_encoding.md R74). -/
def complete (r : Result) (s : State) : StepOutcome :=
  .next (respond (.ok r) s)

/-- `raise <Fault>(info)` (00_scope.md R9; 60_exceptions.md R184): no state is written but the sticky mark, and the response is
`FAULT(code)` with no result. The machine goes on with the next command (95_test_vectors.md P3). -/
def raiseFault (f : Fault) (s : State) : StepOutcome :=
  .next (respond (.fault f) (setFaultMark s))

/-- Nothing is issued: between commands the block is idle and `buf` persists (60_exceptions.md R193). The previous response is
not kept (10_state.md R27). -/
def idle (s : State) : State :=
  { s with response := none }

/-- The owner's next command leaves the port. -/
def setPending (rest : List Command) (s : State) : State :=
  { s with pending := rest }

/-- Issue the owner's next command (20_memory.md R48): the decoder's opcode check first, then its operand list (60_exceptions.md
R185), then the command itself by `run`. -/
def issue (run : Instr → State → StepOutcome) (s : State) : StepOutcome :=
  match s.pending with
  | [] => .next (idle s)
  | c :: rest =>
    match decode c with
    | .instr i => run i (setPending rest s)
    | .reserved op => raiseFault (.illegalCommand op) (setPending rest s)
    | .malformed op => .refused (.malformedOperands op)

/-- Put a command on the port, before those that stand there. -/
def issueFirst (c : Command) (s : State) : State :=
  setPending (c :: s.pending) s

end Sys2Proof.Machine
end

