-- ==== Sys2Proof/Machine/Crc.lean ====
section
/-! DEFINITION. The CRC-8 generator (40_crc.md): CRC_STEP and CRC8. -/

namespace Sys2Proof.Machine

/-- `CRC8_TABLE[acc ^ b]` (R101). -/
def crcStep (cfg : Config) (acc b : Byte) : Byte :=
  cfg.crcTable (acc ^^^ b)

/-- `CRC8(data)`: from accumulator 0x00, one table step per byte from index 0 upward, no final XOR (R100). -/
def crc8 (cfg : Config) (data : Bytes) : Byte :=
  data.foldl (crcStep cfg) 0x00

/-- CRC_STEP under a configuration (R101). -/
def runCrcStep (cfg : Config) (acc b : Byte) (s : State) : StepOutcome :=
  complete (.crc (crcStep cfg acc b)) s

/-- CRC8 under a configuration (R100). -/
def runCrc8 (cfg : Config) (data : Bytes) (s : State) : StepOutcome :=
  complete (.crc (crc8 cfg data)) s

/-- CRC_STEP, opcode 0x01 (R101). -/
def execCrcStep (acc b : Byte) (s : State) : StepOutcome :=
  runCrcStep hw acc b s

/-- CRC8, opcode 0x02 (R100). -/
def execCrc8 (data : Bytes) (s : State) : StepOutcome :=
  runCrc8 hw data s

end Sys2Proof.Machine
end

