-- ==== Sys2Proof/WellFormed.lean ====
section
/-! DEFINITION. The operand domains of 30_encoding.md R71, as far as the operands alone decide them. -/

namespace Sys2Proof

/-- The part of 41_framer.md R124's `valid(frame)` that needs no CRC: length 4 to 64, byte 0 the sync byte, byte 1 the length. -/
def headerOk (frame : Bytes) : Bool :=
  decide (META_LEN ≤ frame.length) && decide (frame.length ≤ MAX_FRAME_LEN) &&
    (frame[0]? == some SYNC) && (frame[1]?.map BitVec.toNat == some frame.length)

/-- R71: every `u8` and every `data` sequence is legal; `payload` has at most 60 bytes; `frame` has the shape of a frame (its
whole-frame CRC depends on the table, so Machine/Framer.lean's `valid` checks that). An ill-formed command still decodes and
runs: it takes the model fault of 60_exceptions.md R183. -/
def WellFormed : Instr → Bool
  | .crcStep _ _ => true
  | .crc8 _ => true
  | .encode _ payload => decide (payload.length ≤ MAX_PAYLOAD)
  | .decodeValidated frame => headerOk frame
  | .append _ => true
  | .tryParseOne => true
  | .reset => true

end Sys2Proof
end

