-- ==== Sys2Proof/Machine/Framer.lean ====
section
/-! DEFINITION. The packet framer and deframer (41_framer.md): ENCODE and DECODE_VALIDATED. -/

namespace Sys2Proof.Machine

/-- The bytes of a frame before its checksum: `[0xA5, L, type_id] ++ payload` (R121, 30_encoding.md R60). -/
def frameHead (typeId : Byte) (payload : Bytes) : Bytes :=
  [SYNC, lengthByte payload, typeId] ++ payload

/-- The frame ENCODE returns: the head and its CRC (R121, 40_crc.md R103). -/
def encodeFrame (cfg : Config) (typeId : Byte) (payload : Bytes) : Bytes :=
  frameHead typeId payload ++ [crc8 cfg (frameHead typeId payload)]

/-- `valid(frame)` (R124): length 4 to 64, sync byte, length byte, and whole-frame CRC 0x00. -/
def valid (cfg : Config) (frame : Bytes) : Bool :=
  headerOk frame && (crc8 cfg frame == 0x00)

/-- `(frame[2], frame[3..L-1))` with `L = len(frame)` (R125). -/
def packetOf (frame : Bytes) : Packet :=
  { typeId := byteAt frame 2, payload := slice frame 3 (frame.length - 1) }

/-- ENCODE under a configuration (R121, R122). -/
def runEncode (cfg : Config) (typeId : Byte) (payload : Bytes) (s : State) : StepOutcome :=
  if payload.length > MAX_PAYLOAD then raiseFault (.encOversize payload.length) s
  else complete (.frame (encodeFrame cfg typeId payload)) s

/-- DECODE_VALIDATED under a configuration (R125, R126). -/
def runDecodeValidated (cfg : Config) (frame : Bytes) (s : State) : StepOutcome :=
  if valid cfg frame then complete (.decoded (packetOf frame)) s
  else raiseFault (.decUnvalidated frame.length) s

/-- ENCODE, opcode 0x10 (R121, R122). -/
def execEncode (typeId : Byte) (payload : Bytes) (s : State) : StepOutcome :=
  runEncode hw typeId payload s

/-- DECODE_VALIDATED, opcode 0x11 (R125, R126). -/
def execDecodeValidated (frame : Bytes) (s : State) : StepOutcome :=
  runDecodeValidated hw frame s

end Sys2Proof.Machine
end

