-- ==== Sys2Proof/Machine/Flags.lean ====
section
/-! DEFINITION. The outcome codes and the two indications of a TRY_PARSE_ONE response (30_encoding.md R72, R73), and the fault
codes (60_exceptions.md R183). The block has no flag that outlives a response (10_state.md R27). -/

namespace Sys2Proof.Machine

/-- The 3-bit outcome code (R72); 0 and 7 are never returned. -/
def outcomeCode : ParseOutcome → BitVec 3
  | .noSync => 1
  | .syncShort => 2
  | .badLength => 3
  | .lenShort => 4
  | .crcMismatch => 5
  | .success => 6

/-- `progress` (R73): another TRY_PARSE_ONE without a new APPEND may yield a different outcome. -/
def outcomeProgress : ParseOutcome → Bool
  | .noSync => false
  | .syncShort => false
  | .badLength => true
  | .lenShort => false
  | .crcMismatch => true
  | .success => true

/-- `message` (R73): the response carries `type_id` and `payload`. -/
def outcomeMessage : ParseOutcome → Bool
  | .noSync => false
  | .syncShort => false
  | .badLength => false
  | .lenShort => false
  | .crcMismatch => false
  | .success => true

/-- The reply of an outcome that carries no packet. -/
def bareReply (o : ParseOutcome) : ParseReply :=
  { outcome := o, progress := outcomeProgress o, message := outcomeMessage o, packet := none }

/-- The reply of outcome 6 (42_parser.md R150). -/
def messageReply (p : Packet) : ParseReply :=
  { outcome := .success, progress := outcomeProgress .success, message := outcomeMessage .success, packet := some p }

/-- The fault code (60_exceptions.md R183). -/
def faultCode : Fault → Nat
  | .encOversize _ => 1
  | .decUnvalidated _ => 2
  | .bufOverflow _ => 3
  | .illegalCommand _ => 4

end Sys2Proof.Machine
end

