-- ==== Sys2Proof/Machine/Parser.lean ====
section
/-! DEFINITION. The stream parser and resynchronizer (42_parser.md): APPEND, TRY_PARSE_ONE and RESET. -/

namespace Sys2Proof.Machine

/-- The reply of a TRY_PARSE_ONE and the buffer it leaves. -/
structure Parsed where
  reply : ParseReply
  buf : Bytes
deriving DecidableEq, Repr

/-- The capacity check of APPEND (R140, R141): does `m` bytes exceed the capacity? -/
def exceeds : Option Nat → Nat → Bool
  | none, _ => false
  | some n, m => decide (m > n)

/-- APPEND under a configuration (R140, R141). -/
def runAppend (cfg : Config) (data : Bytes) (s : State) : StepOutcome :=
  if exceeds cfg.bufCap (s.buf.length + data.length) then
    raiseFault (.bufOverflow (s.buf.length + data.length)) s
  else complete .empty (setBuf (s.buf ++ data) s)

/-- Cases 2 to 6 of R142 on the buffer after the leading-garbage trim (R145): the candidate sync byte stands at index 0. The
checks stand in the order of the cases, and the first that applies decides (60_exceptions.md R185). -/
def parseCandidate (cfg : Config) (buf : Bytes) : Parsed :=
  let n := buf.length
  let declared := (byteAt buf 1).toNat
  if n < cfg.hdrMin then ⟨bareReply .syncShort, buf⟩
  else if declared < META_LEN ∨ declared > MAX_FRAME_LEN then ⟨bareReply .badLength, buf.drop 1⟩
  else if n < declared then ⟨bareReply .lenShort, buf⟩
  else if crc8 cfg (slice buf 0 declared) ≠ 0x00 then ⟨bareReply .crcMismatch, buf.drop 1⟩
  else ⟨messageReply (packetOf (slice buf 0 declared)), buf.drop declared⟩

/-- The whole algorithm of R142: the leftmost sync byte is the candidate (R143); without one the buffer is cleared (R144);
else the bytes before it are dropped (R145) and the candidate is examined. -/
def parseBuf (cfg : Config) (buf : Bytes) : Parsed :=
  match findFirst SYNC buf with
  | none => ⟨bareReply .noSync, []⟩
  | some i => parseCandidate cfg (buf.drop i)

/-- TRY_PARSE_ONE under a configuration (R142): it reads and writes `buf` only. -/
def runTryParseOne (cfg : Config) (s : State) : StepOutcome :=
  complete (.parse (parseBuf cfg s.buf).reply) (setBuf (parseBuf cfg s.buf).buf s)

/-- RESET under a configuration (R151); the fault mark is not cleared (60_exceptions.md R184). -/
def runReset (s : State) : StepOutcome :=
  complete .empty (setBuf [] s)

/-- APPEND, opcode 0x20 (R140). -/
def execAppend (data : Bytes) (s : State) : StepOutcome :=
  runAppend hw data s

/-- TRY_PARSE_ONE, opcode 0x21 (R142). -/
def execTryParseOne (s : State) : StepOutcome :=
  runTryParseOne hw s

/-- RESET, opcode 0x2F (R151). -/
def execReset (s : State) : StepOutcome :=
  runReset s

end Sys2Proof.Machine
end

