-- ==== Sys2Proof/Machine/Dispatch.lean ====
section
/-! DEFINITION. One arm per command of 30_encoding.md R69. -/

namespace Sys2Proof.Machine

def exec (i : Instr) (s : State) : Host.Outcome State Fault Refusal :=
  match i with
  | .crcStep acc b => Sys2Proof.Machine.execCrcStep acc b s
  | .crc8 data => Sys2Proof.Machine.execCrc8 data s
  | .encode typeId payload => Sys2Proof.Machine.execEncode typeId payload s
  | .decodeValidated frame => Sys2Proof.Machine.execDecodeValidated frame s
  | .append data => Sys2Proof.Machine.execAppend data s
  | .tryParseOne => Sys2Proof.Machine.execTryParseOne s
  | .reset => Sys2Proof.Machine.execReset s

end Sys2Proof.Machine
end

