-- ==== Sys2Proof/Machine/Step.lean ====
section
/-! DEFINITION. One step: the owner's next command, as one atomic operation (00_scope.md R10, 30_encoding.md R68). -/

namespace Sys2Proof.Machine

/-- Issue the next pending command and run it; with none pending the block is idle (60_exceptions.md R193). -/
def step (s : State) : Host.Outcome State Fault Refusal :=
  issue exec s

/-- `s` with the command of a table word issued next (its operands, which have no bits in the table, at zero). The table gives
every row its 8 opcode bits. -/
def State.withFetchWord (s : State) (nbits w : Nat) : State :=
  issueFirst (tableCommand (w % 2 ^ nbits)) s

end Sys2Proof.Machine
end

