-- ==== Sys2Proof/Machine/Configured.lean ====
section
/-! DEFINITION. The same machine under any configuration of 00_scope.md R7: another CRC table (the reference table of 40_crc.md
R107 among them), a finite FIFO (`BUF_CAP = some n`, 42_parser.md R141), or the rejected reading `HDR_MIN = 5` "passed as a
parameter to study it" (92_eei_decisions.md D4). `exec` is this at `hw` (Sys2Proof/Laws/Machine.lean, `exec_eq_execWith`). -/

namespace Sys2Proof.Machine

/-- The commands under a configuration. -/
def execWith (cfg : Config) (i : Instr) (s : State) : StepOutcome :=
  match i with
  | .crcStep acc b => runCrcStep cfg acc b s
  | .crc8 data => runCrc8 cfg data s
  | .encode typeId payload => runEncode cfg typeId payload s
  | .decodeValidated frame => runDecodeValidated cfg frame s
  | .append data => runAppend cfg data s
  | .tryParseOne => runTryParseOne cfg s
  | .reset => runReset s

/-- One step under a configuration. -/
def stepWith (cfg : Config) (s : State) : StepOutcome :=
  issue (execWith cfg) s

end Sys2Proof.Machine
end

