-- ==== Sys2Proof/Machine/Drain.lean ====
section
/-! DEFINITION. The pseudo-commands `drain` and `feed` (30_encoding.md R75; 42_parser.md R164, R165): loops of real commands that
read only the responses, and the owner's command sequences they are compared with (R155). -/

namespace Sys2Proof.Machine

/-- What an owner has after a sequence of commands: the state, and the TRY_PARSE_ONE replies in order. -/
structure Trace where
  state : State
  replies : List ParseReply
deriving DecidableEq, Repr

/-- The reply on the port, if the last command was a TRY_PARSE_ONE. -/
def parseReply (s : State) : Option ParseReply :=
  match s.response with
  | some (.ok (.parse r)) => some r
  | _ => none

/-- The TRY_PARSE_ONE replies on the port, as a list of at most one. -/
def repliesOf (s : State) : List ParseReply :=
  (parseReply s).toList

/-- Issue the commands in order under a configuration and collect the TRY_PARSE_ONE replies. -/
def runCommands (cfg : Config) : List Instr → State → Trace
  | [], s => ⟨s, []⟩
  | i :: rest, s =>
    match execWith cfg i s with
    | .next t =>
      let later := runCommands cfg rest t
      ⟨later.state, repliesOf t ++ later.replies⟩
    | .fault _ => ⟨s, []⟩
    | .refused _ => ⟨s, []⟩

/-- The loop of R164, at most `fuel` times: it goes on while the reply says `progress = 1`. -/
def drainLoop (cfg : Config) : Nat → State → Trace
  | 0, s => ⟨s, []⟩
  | fuel + 1, s =>
    match runTryParseOne cfg s with
    | .next t =>
      match parseReply t with
      | none => ⟨t, []⟩
      | some r =>
        if r.progress then
          let later := drainLoop cfg fuel t
          ⟨later.state, r :: later.replies⟩
        else ⟨t, [r]⟩
    | .fault _ => ⟨s, []⟩
    | .refused _ => ⟨s, []⟩

/-- `drain` (R164). The bound `len(buf) + 1` is R153's: the loop stops by itself within it. -/
def drain (cfg : Config) (s : State) : Trace :=
  drainLoop cfg (s.buf.length + 1) s

/-- `feed [data]` (R165): APPEND, then drain. -/
def feed (cfg : Config) (data : Bytes) (s : State) : Trace :=
  match runAppend cfg data s with
  | .next t => drain cfg t
  | .fault _ => ⟨s, []⟩
  | .refused _ => ⟨s, []⟩

/-- `feed` each chunk in order (the drain discipline of R166), collecting all replies. -/
def feedAll (cfg : Config) : List Bytes → State → Trace
  | [], s => ⟨s, []⟩
  | c :: rest, s =>
    let now := feed cfg c s
    let later := feedAll cfg rest now.state
    ⟨later.state, now.replies ++ later.replies⟩

/-- The results of R164: the `(type_id, payload)` pairs of the replies with `message = 1`. -/
def packets (replies : List ParseReply) : List Packet :=
  replies.filterMap (fun r => if r.message then r.packet else none)

/-- The progress replies (outcomes 3, 5 and 6), in order, with their results. -/
def progressReplies (replies : List ParseReply) : List ParseReply :=
  replies.filter (fun r => r.progress)

/-- The bytes a command sequence appends, in order. -/
def appendedBytes : List Instr → Bytes
  | [] => []
  | .append data :: rest => data ++ appendedBytes rest
  | .crcStep _ _ :: rest => appendedBytes rest
  | .crc8 _ :: rest => appendedBytes rest
  | .encode _ _ :: rest => appendedBytes rest
  | .decodeValidated _ :: rest => appendedBytes rest
  | .tryParseOne :: rest => appendedBytes rest
  | .reset :: rest => appendedBytes rest

/-- The commands of a stream being fed: everything but RESET, which discards the stream. -/
def keepsStream : Instr → Bool
  | .reset => false
  | .crcStep _ _ => true
  | .crc8 _ => true
  | .encode _ _ => true
  | .decodeValidated _ => true
  | .append _ => true
  | .tryParseOne => true

end Sys2Proof.Machine
end

