-- ==== Sys2Proof/Safety.lean ====
section
/-! DEFINITION. What counts as a successful run, and the shapes that claims about the parser use. -/

namespace Sys2Proof

open Machine

/-- "A state with the mark set is never a successful final state" (60_exceptions.md R184). A claim about a run asks for this of
its last state; the mark being sticky, it then holds of every state on the way. -/
def Successful (s : State) : Prop :=
  s.faultMark = false

/-- The reserved opcode values, as 30_encoding.md R70 lists their ranges. -/
abbrev ReservedOpcode (op : Byte) : Prop :=
  op.toNat = 0x00 ∨ (0x03 ≤ op.toNat ∧ op.toNat ≤ 0x0F) ∨ (0x12 ≤ op.toNat ∧ op.toNat ≤ 0x1F) ∨
    (0x22 ≤ op.toNat ∧ op.toNat ≤ 0x2E) ∨ (0x30 ≤ op.toNat ∧ op.toNat ≤ 0xFF)

/-- No byte equals the sync byte. -/
def SyncFree (bs : Bytes) : Prop :=
  ∀ b ∈ bs, b ≠ SYNC

/-- `buf` is garbage without a sync byte, then a candidate that starts with the sync byte: so the candidate starts at the leftmost
sync byte (42_parser.md R143, R145). -/
def CandidateAfter (garbage cand buf : Bytes) : Prop :=
  buf = garbage ++ cand ∧ SyncFree garbage ∧ cand[0]? = some SYNC

/-- The three forms of `buf` after a drain (42_parser.md R154), at `HDR_MIN = 4`. -/
def DrainedForm (buf : Bytes) : Prop :=
  buf = [] ∨
  (byteAt buf 0 = SYNC ∧ 1 ≤ buf.length ∧ buf.length ≤ 3) ∨
  (byteAt buf 0 = SYNC ∧ 4 ≤ (byteAt buf 1).toNat ∧ (byteAt buf 1).toNat ≤ 64 ∧
    4 ≤ buf.length ∧ buf.length < (byteAt buf 1).toNat)

/-- A TRY_PARSE_ONE reply has the indications of its outcome (30_encoding.md R73) and carries a packet exactly when
`message = 1`, with at most 60 payload bytes (R74). -/
def ReplyOk (r : ParseReply) : Prop :=
  r.progress = outcomeProgress r.outcome ∧ r.message = outcomeMessage r.outcome ∧
  (r.message = true ↔ r.packet.isSome) ∧
  ∀ p, r.packet = some p → p.payload.length ≤ MAX_PAYLOAD

/-- `NoAccidentalFrame(G, Y)` (42_parser.md R157): every sync byte of `G`, with declared length `L = X[q+1]` in `X = G ++ Y`, has an
illegal length or a whole slice inside `X` whose CRC is not 0x00. -/
def NoAccidentalFrame (cfg : Config) (g y : Bytes) : Prop :=
  ∀ q, q < g.length → byteAt g q = SYNC →
    let x := g ++ y
    let declared := (byteAt x (q + 1)).toNat
    declared < 4 ∨ declared > 64 ∨
      (q + declared ≤ x.length ∧ crc8 cfg (slice x q (q + declared)) ≠ 0x00)

/-- `b` with bit `k` inverted. -/
def flipBit (k : Nat) (b : Byte) : Byte :=
  b ^^^ BitVec.ofNat 8 (2 ^ k)

/-- 40_crc.md R106 (b), a named premise about a configuration's table (93_implementation_defined.md I6): a change to one bit of a
sequence of fixed length changes its CRC. -/
def DetectsSingleBit (cfg : Config) : Prop :=
  ∀ (l r : Bytes) (b : Byte) (k : Nat), k < 8 → crc8 cfg (l ++ flipBit k b :: r) ≠ crc8 cfg (l ++ b :: r)

/-- The two bit orders of a CRC's division (40_crc.md R102): each byte from bit 7 down (MSB-first), or from bit 0 up (reflected). -/
inductive BitOrder where
  | msbFirst
  | lsbFirst
deriving DecidableEq, Repr

/-- The place in a byte of the bit that comes as number `j`, for `j < 8`. -/
def bitPlace (order : BitOrder) (j : Nat) : Nat :=
  match order with
  | .msbFirst => 7 - j
  | .lsbFirst => j

/-- Bit `i` of a byte sequence: bytes from index 0 upward (20_memory.md R42), the bits of each in the given order. -/
def bitAt (order : BitOrder) (s : Bytes) (i : Nat) : Bool :=
  (byteAt s (i / 8)).getLsbD (bitPlace order (i % 8))

/-- Every bit in which `s` and `t` differ is one of the 8 consecutive bits from bit `p` on. -/
def DifferWithinBurst (order : BitOrder) (p : Nat) (s t : Bytes) : Prop :=
  ∀ i, bitAt order s i ≠ bitAt order t i → p ≤ i ∧ i < p + 8

/-- 40_crc.md R106 (c), a named premise about a configuration's table: a change confined to 8 consecutive bits of a sequence of fixed
length changes its CRC. DEDUCED (log entry 17): consecutive in the bit order of the table's own division. -/
def DetectsBurst (order : BitOrder) (cfg : Config) : Prop :=
  ∀ (s t : Bytes) (p : Nat), s.length = t.length → s ≠ t → DifferWithinBurst order p s t → crc8 cfg s ≠ crc8 cfg t

/-- The state invariant of the model, kept by every step from every state that meets it: a TRY_PARSE_ONE reply on the port has the
indications of its outcome and a packet of at most 60 payload bytes (R73, R74); a reply without progress stands beside a buffer in
one of the three drained forms (42_parser.md R154); a frame on the port is valid (41_framer.md R123); and a fault response stands
beside a set fault mark (60_exceptions.md R184). -/
def PortInv (s : State) : Prop :=
  (∀ r, s.response = some (.ok (.parse r)) → ReplyOk r ∧ (r.progress = false → DrainedForm s.buf)) ∧
  (∀ f, s.response = some (.ok (.frame f)) → valid hw f = true) ∧
  (∀ f, s.response = some (.fault f) → s.faultMark = true)

end Sys2Proof
end

