-- ==== Sys2Proof/Certificates/Slice0/Obligations.lean ====
section
/-! DEFINITION. The statements for the provers, taken from the numbered rules of spec/. A statement over `exec` is about the
hardware's configuration `hw`, whose CRC table is open: it holds for EVERY table with entry 0 at 0x00. A statement over every
`Config` covers every CRC table (the reference table of 40_crc.md R107 among them), both readings of HDR_MIN, and every capacity;
`exec` is its case `hw`. -/

open Sys2Proof Sys2Proof.Machine

/-! ## Commands, decoding and stepping (30_encoding.md) -/

/-- The words of R69 decode to their commands: the opcode bytes and operand lists written out from the opcode table. -/
def Obligations.KnownCommandsDecode : Prop :=
  ∀ (acc b typeId : Byte) (bs : Bytes),
    decode ⟨0b0000_0001, [.u8 acc, .u8 b]⟩ = .instr (.crcStep acc b) ∧
    decode ⟨0b0000_0010, [.bytes bs]⟩ = .instr (.crc8 bs) ∧
    decode ⟨0b0001_0000, [.u8 typeId, .bytes bs]⟩ = .instr (.encode typeId bs) ∧
    decode ⟨0b0001_0001, [.bytes bs]⟩ = .instr (.decodeValidated bs) ∧
    decode ⟨0b0010_0000, [.bytes bs]⟩ = .instr (.append bs) ∧
    decode ⟨0b0010_0001, []⟩ = .instr .tryParseOne ∧
    decode ⟨0b0010_1111, []⟩ = .instr .reset

/-- Decode and encode agree in both directions, for every command and every operand value: "Every command is one opcode byte with a
fixed operand list" (R76). The operand list beside the opcode is the model's form of R68's typed fields (log entry 4). -/
def Obligations.DecodeEncodeAgree : Prop :=
  ∀ (c : Command) (i : Instr), decode c = .instr i ↔ c = encode i

/-- R70: exactly the 249 listed opcode values are reserved, whatever operands stand beside them; a step that meets one answers
FAULT(ILLEGAL_COMMAND) with the opcode byte and leaves `buf` as it was. -/
def Obligations.ReservedOpcodesFault : Prop :=
  ((List.range 256).filter (fun n => decide (ReservedOpcode (BitVec.ofNat 8 n)))).length = 249 ∧
  (∀ (op : Byte) (operands : List Operand), decode ⟨op, operands⟩ = .reserved op ↔ ReservedOpcode op) ∧
  ∀ (s : State) (op : Byte) (operands : List Operand) (rest : List Command),
    ReservedOpcode op → s.pending = ⟨op, operands⟩ :: rest →
    step s = .next { buf := s.buf, faultMark := true, response := some (.fault (.illegalCommand op)), pending := rest }

/-- `op[7:4]` of every command that decodes is the unit's nibble (R68). -/
def Obligations.UpperNibbleSelectsTheUnit : Prop :=
  ∀ (c : Command) (i : Instr), decode c = .instr i → c.op.extractLsb' 4 4 = unitNibble (unitOf i)

/-- A step runs the decoded command: the next pending command leaves the port, and the step is its `exec`, for EVERY instruction
`i` (`exec`'s own statements say what that is). -/
def Obligations.StepRunsTheDecodedCommand : Prop :=
  ∀ (s : State) (c : Command) (rest : List Command) (i : Instr),
    s.pending = c :: rest → decode c = .instr i → step s = exec i { s with pending := rest }

/-- A table word placed by `withFetchWord` is the very next command: when the decoder reads `i` from it, the next step is `exec i` of the
state it was placed in (log entry 14). -/
def Obligations.PlacedTableWordRunsNext : Prop :=
  ∀ (s : State) (nbits w : Nat) (i : Instr), decodeTableWord nbits w = some i → step (s.withFetchWord nbits w) = exec i s

/-- With nothing issued the block is idle and the contents of `buf` persist (60_exceptions.md R193). That an idle step clears the
response port is the model's choice (log entry 3). -/
def Obligations.IdleStepKeepsTheBuffer : Prop :=
  ∀ s : State, s.pending = [] → step s = .next { s with response := none }

/-- The model's only stop (log entry 4): a real opcode whose operand list is no command's. Every other step answers a next state. -/
def Obligations.StepStopsOnlyOnMalformedOperands : Prop :=
  ∀ s : State,
    (∃ t, step s = .next t) ∨
    ∃ op operands rest, s.pending = ⟨op, operands⟩ :: rest ∧ ¬ ReservedOpcode op ∧
      (∀ i, encode i ≠ ⟨op, operands⟩) ∧ step s = .refused (.malformedOperands op)

/-- Where the stop of log entry 4 is reached. -/
def Obligations.MalformedOperandsStop : Prop :=
  ∀ (s : State) (op : Byte) (operands : List Operand) (rest : List Command),
    s.pending = ⟨op, operands⟩ :: rest → ¬ ReservedOpcode op → (∀ i, encode i ≠ ⟨op, operands⟩) →
    step s = .refused (.malformedOperands op)

/-! ## Reset, frames of the commands, and the fault mark -/

/-- R200: a newly constructed parser has `buf = []` and the mark clear; RESET gives the same `buf` and does not clear the mark. -/
def Obligations.ResetState : Prop :=
  State.reset.buf = [] ∧ State.reset.faultMark = false ∧
  ∀ s : State, ∃ t, exec .reset s = .next t ∧ t.buf = State.reset.buf ∧ t.faultMark = s.faultMark

/-- Every command completes or faults as a whole (60_exceptions.md R187): `exec` always answers a next state. -/
def Obligations.EveryCommandAnswersANextState : Prop :=
  ∀ (i : Instr) (s : State), ∃ t, exec i s = .next t

/-- The frame of all seven commands: none touches the commands still pending; only the parser's touch `buf` (the CRC generator and the
framer hold no state, 10_state.md R25, R26); APPEND only adds at the back, TRY_PARSE_ONE only removes from the front, RESET clears
(10_state.md R21); and the fault mark is changed by nothing but the two operand faults. -/
def Obligations.CommandsLeaveTheRestUnchanged : Prop :=
  ∀ (i : Instr) (s t : State), exec i s = .next t →
    t.pending = s.pending ∧
    (unitOf i = .crc ∨ unitOf i = .framer → t.buf = s.buf) ∧
    (∀ data, i = .append data → t.buf = s.buf ++ data) ∧
    (i = .tryParseOne → t.buf = [] ∨ ∃ k, t.buf = s.buf.drop k) ∧
    (i = .reset → t.buf = []) ∧
    (unitOf i = .crc ∨ unitOf i = .parser → t.faultMark = s.faultMark) ∧
    (∀ typeId payload, i = .encode typeId payload → payload.length ≤ 60 → t.faultMark = s.faultMark) ∧
    (∀ frame, i = .decodeValidated frame → valid hw frame = true → t.faultMark = s.faultMark)

/-- What a command answers, and the buffer it leaves, depend on nothing but its operands and `buf`: no previous response, no mark and
no command still pending is read (10_state.md R27, R28). -/
def Obligations.CommandsReadOnlyTheBuffer : Prop :=
  ∀ (i : Instr) (s s' t t' : State), s.buf = s'.buf → exec i s = .next t → exec i s' = .next t' →
    t.response = t'.response ∧ t.buf = t'.buf

/-- R184, of the machine and under every configuration (a finite BUF_CAP among them): a step that answers a fault writes no `buf`, returns no result and
sets the mark; no step clears the mark; only a fault sets it; a state with the mark set is not successful. -/
def Obligations.FaultMarkIsSticky : Prop :=
  ∀ (cfg : Config) (s t : State), step s = .next t ∨ stepWith cfg s = .next t →
    (∀ f, t.response = some (.fault f) → t.buf = s.buf ∧ t.faultMark = true) ∧
    (s.faultMark = true → t.faultMark = true) ∧
    (s.faultMark = false → t.faultMark = true → ∃ f, t.response = some (.fault f)) ∧
    (t.faultMark = true → ¬ Successful t) ∧
    (Successful t → Successful s)

/-- R183: the four fault codes, each with its command, its condition and the information recorded, under every configuration; the
commands that never fault; and that each condition is the only one. -/
def Obligations.ModelFaultTable : Prop :=
  (∀ n op, faultCode (.encOversize n) = 1 ∧ faultCode (.decUnvalidated n) = 2 ∧ faultCode (.bufOverflow n) = 3 ∧
    faultCode (.illegalCommand op) = 4) ∧
  ∀ (cfg : Config) (s : State),
    (∀ typeId payload, ∃ t, execWith cfg (.encode typeId payload) s = .next t ∧
      ∀ f, t.response = some (.fault f) ↔ payload.length > 60 ∧ f = .encOversize payload.length) ∧
    (∀ frame, ∃ t, execWith cfg (.decodeValidated frame) s = .next t ∧
      ∀ f, t.response = some (.fault f) ↔ ¬ valid cfg frame = true ∧ f = .decUnvalidated frame.length) ∧
    (∀ data, ∃ t, execWith cfg (.append data) s = .next t ∧
      ∀ f, t.response = some (.fault f) ↔
        (∃ n, cfg.bufCap = some n ∧ s.buf.length + data.length > n) ∧ f = .bufOverflow (s.buf.length + data.length)) ∧
    (∀ op operands rest, s.pending = ⟨op, operands⟩ :: rest → ∀ t, stepWith cfg s = .next t →
      ∀ f, t.response = some (.fault (.illegalCommand f)) ↔ ReservedOpcode op ∧ f = op) ∧
    (∀ i, (∃ acc b, i = .crcStep acc b) ∨ (∃ data, i = .crc8 data) ∨ i = .tryParseOne ∨ i = .reset →
      ∃ t, execWith cfg i s = .next t ∧ ∀ f, t.response ≠ some (.fault f))

/-! ## CRC-8 generator (40_crc.md) -/

/-- R101: CRC_STEP answers `CRC8_TABLE[acc ^ b]` and writes nothing else; its corner cases, its relation to CRC8 under every table, and
its example under the reference table. -/
def Obligations.CrcStepResult : Prop :=
  (∀ (acc b : Byte) (s : State),
    exec (.crcStep acc b) s = .next { s with response := some (.ok (.crc (hw.crcTable (acc ^^^ b)))) }) ∧
  (∀ (cfg : Config) (acc b : Byte) (s t : Bytes),
    crcStep cfg acc acc = 0x00 ∧ cfg.crcTable 0x00 = 0x00 ∧ crcStep cfg 0x00 b = cfg.crcTable b ∧
    crc8 cfg s = s.foldl (crcStep cfg) 0x00 ∧
    crc8 cfg (s ++ t) = t.foldl (crcStep cfg) (crc8 cfg s)) ∧
  crcStep referenceConfig 0xA5 0x05 = referenceTable 0xA0 ∧ referenceTable 0xA0 = 0x69

/-- R100: CRC8 answers the fold of the table over the data from accumulator 0x00, in index order, and writes nothing else; the empty
sequence and every all-zero sequence give 0x00; the same data give the same answer whatever came before; the example under the
reference table. -/
def Obligations.Crc8Result : Prop :=
  (∀ (data : Bytes) (s : State),
    exec (.crc8 data) s =
      .next { s with response := some (.ok (.crc (data.foldl (fun acc b => hw.crcTable (acc ^^^ b)) 0x00))) }) ∧
  (∀ (s : State), exec (.crc8 []) s = .next { s with response := some (.ok (.crc 0x00)) }) ∧
  (∀ (s : State) (n : Nat), exec (.crc8 (List.replicate n 0x00)) s = .next { s with response := some (.ok (.crc 0x00)) }) ∧
  (∀ (data : Bytes) (s s' t t' : State), exec (.crc8 data) s = .next t → exec (.crc8 data) s' = .next t' →
    t.response = t'.response) ∧
  crc8 referenceConfig [0xA5, 0x05, 0x01, 0x2A] = 0xB2

/-- R104, for every table with entry 0 at 0x00: appending a sequence's CRC gives CRC 0x00, so every frame has whole-frame CRC 0x00. -/
def Obligations.CrcSelfVerifying : Prop :=
  ∀ (cfg : Config) (s : Bytes),
    crc8 cfg (s ++ [crc8 cfg s]) = cfg.crcTable (crc8 cfg s ^^^ crc8 cfg s) ∧
    crc8 cfg (s ++ [crc8 cfg s]) = 0x00 ∧
    ∀ (typeId : Byte) (payload : Bytes), crc8 cfg (encodeFrame cfg typeId payload) = 0x00

/-- R107: the printed reference table is the MSB-first table of 0x07; its check value is 0xF4; and the reflected table of 0x8C gives
0x84 for the frame of NMC's scenario, so the hardware's checksum is not fixed by the spec. The table is the spec's own choice for test
vectors, not the hardware's. -/
def Obligations.ReferenceTableIsGenerated : Prop :=
  (∀ i : Byte, referenceTable i = msbTable 0x07 i) ∧
  crc8 referenceConfig [0x31, 0x32, 0x33, 0x34, 0x35, 0x36, 0x37, 0x38, 0x39] = 0xF4 ∧
  [0xA5, 0x05, 0x01, 0x2A].foldl (fun acc b => lsbTable 0x8C (acc ^^^ b)) 0x00 = 0x84

/-- R106 (a), second half: if the table is a permutation, exactly one byte after `s` gives CRC 0x00, and it is `CRC8(s)`. The rule marks
this as general knowledge; it is a premise about the table, not a property of the block. -/
def Obligations.PermutationTableFixesTheChecksum : Prop :=
  ∀ (cfg : Config), Function.Injective cfg.crcTable →
    ∀ (s : Bytes) (b : Byte), crc8 cfg (s ++ [b]) = 0x00 ↔ b = crc8 cfg s

/-- R102, R106 (a): both procedures give `T[0] = 0` and a linear table, and where the generator's constant bit is 1 (bit 0 of `P`, bit 7
of the reversed byte) a permutation. -/
def Obligations.GeneratorTablesAreLinearPermutations : Prop :=
  ∀ p : Byte,
    (msbTable p 0 = 0 ∧ (∀ a b, msbTable p (a ^^^ b) = msbTable p a ^^^ msbTable p b) ∧
      (p.getLsbD 0 = true → Function.Injective (msbTable p))) ∧
    (lsbTable p 0 = 0 ∧ (∀ a b, lsbTable p (a ^^^ b) = lsbTable p a ^^^ lsbTable p b) ∧
      (p.getLsbD 7 = true → Function.Injective (lsbTable p)))

/-- R106 (b): the table of a generator with constant bit 1, in either bit order, detects every single-bit change at fixed length. -/
def Obligations.GeneratorTablesDetectSingleBit : Prop :=
  ∀ (cfg : Config) (p : Byte),
    (p.getLsbD 0 = true ∧ cfg.crcTable = msbTable p) ∨ (p.getLsbD 7 = true ∧ cfg.crcTable = lsbTable p) →
    DetectsSingleBit cfg

/-- R106 (c): the table of a generator with constant bit 1 detects every change confined to 8 consecutive bits at fixed length, across
a byte boundary too. That "consecutive" means in the order of the table's own division is the model's reading (log entry 17). -/
def Obligations.GeneratorTablesDetectBursts : Prop :=
  ∀ (cfg : Config) (p : Byte),
    (p.getLsbD 0 = true → cfg.crcTable = msbTable p → DetectsBurst .msbFirst cfg) ∧
    (p.getLsbD 7 = true → cfg.crcTable = lsbTable p → DetectsBurst .lsbFirst cfg)

/-! ## Packet framer (41_framer.md) -/

/-- R121: ENCODE of at most 60 payload bytes answers `[0xA5, L, type_id] ++ payload ++ [crc]` with `L = len + 4`, and of more answers
ENC_OVERSIZE; the corner cases (an empty payload, a 60-byte payload); the example under the reference table. -/
def Obligations.EncodeResult : Prop :=
  (∀ (typeId : Byte) (payload : Bytes) (s : State), payload.length ≤ 60 →
    let head := [0xA5, BitVec.ofNat 8 (payload.length + 4), typeId] ++ payload
    exec (.encode typeId payload) s = .next { s with response := some (.ok (.frame (head ++ [crc8 hw head]))) }) ∧
  (∀ (typeId : Byte) (payload : Bytes) (s : State), payload.length > 60 →
    exec (.encode typeId payload) s =
      .next { s with faultMark := true, response := some (.fault (.encOversize payload.length)) }) ∧
  (∀ (typeId : Byte) (s : State),
    exec (.encode typeId []) s =
      .next { s with response := some (.ok (.frame [0xA5, 0x04, typeId, crc8 hw [0xA5, 0x04, typeId]])) }) ∧
  (∀ (typeId : Byte) (payload : Bytes), payload.length = 60 →
    (encodeFrame hw typeId payload).length = 64 ∧ (encodeFrame hw typeId payload)[1]? = some 0x40) ∧
  encodeFrame referenceConfig 0x01 [0x2A] = [0xA5, 0x05, 0x01, 0x2A, 0xB2]

/-- R123: every frame ENCODE returns has all six properties. -/
def Obligations.EncodedFrameShape : Prop :=
  ∀ (typeId : Byte) (payload : Bytes) (s : State), payload.length ≤ 60 →
    ∃ f, exec (.encode typeId payload) s = .next { s with response := some (.ok (.frame f)) } ∧
      f.length = payload.length + 4 ∧ 4 ≤ f.length ∧ f.length ≤ 64 ∧
      f[0]? = some 0xA5 ∧ f[1]?.map BitVec.toNat = some f.length ∧ f[2]? = some typeId ∧
      slice f 3 (f.length - 1) = payload ∧ crc8 hw f = 0x00

/-- R122: an oversized ENCODE is refused with ENC_OVERSIZE, returns no frame and changes no state but the mark; above 251 bytes its
length byte would not fit. -/
def Obligations.OversizedEncodeFaults : Prop :=
  ∀ (typeId : Byte) (payload : Bytes) (s : State), payload.length > 60 →
    exec (.encode typeId payload) s =
      .next { s with faultMark := true, response := some (.fault (.encOversize payload.length)) } ∧
    (payload.length > 251 → (lengthByte payload).toNat ≠ payload.length + 4)

/-- R124: what `valid(frame)` means, and that the valid frames are exactly the frames TRY_PARSE_ONE accepts with outcome 6, whatever
sync-free garbage stands before and whatever bytes stand behind. -/
def Obligations.ValidFramesAreTheAcceptedFrames : Prop :=
  (∀ f : Bytes, valid hw f = true ↔
    4 ≤ f.length ∧ f.length ≤ 64 ∧ f[0]? = some 0xA5 ∧ f[1]?.map BitVec.toNat = some f.length ∧ crc8 hw f = 0x00) ∧
  (∀ (f g rest : Bytes) (s : State), valid hw f = true → SyncFree g → s.buf = g ++ f ++ rest →
    exec .tryParseOne s =
      .next { s with buf := rest, response := some (.ok (.parse ⟨.success, true, true, some (packetOf f)⟩)) }) ∧
  (∀ (f g : Bytes) (s t : State) (r : ParseReply), SyncFree g → f[0]? = some SYNC → s.buf = g ++ f ++ t.buf →
    exec .tryParseOne s = .next t → t.response = some (.ok (.parse r)) → r.outcome = .success → valid hw f = true)

/-- R125: DECODE_VALIDATED of a valid frame answers byte 2 and bytes 3 to L-2 and writes nothing else, and of any other faults; a 4-byte
frame gives an empty payload; the example under the reference table. -/
def Obligations.DecodeValidatedResult : Prop :=
  (∀ (f : Bytes) (s : State), valid hw f = true →
    exec (.decodeValidated f) s =
      .next { s with response := some (.ok (.decoded ⟨byteAt f 2, slice f 3 (f.length - 1)⟩)) }) ∧
  (∀ (f : Bytes) (s : State), ¬ valid hw f = true →
    exec (.decodeValidated f) s =
      .next { s with faultMark := true, response := some (.fault (.decUnvalidated f.length)) }) ∧
  (∀ (f : Bytes), f.length = 4 → (packetOf f).payload = []) ∧
  valid referenceConfig [0xA5, 0x05, 0x01, 0x2A, 0xB2] = true ∧
  packetOf [0xA5, 0x05, 0x01, 0x2A, 0xB2] = ⟨0x01, [0x2A]⟩

/-- R126: the cases in which DECODE_VALIDATED faults, whatever the table: a short frame, a long frame, no sync byte at the front, a wrong
length byte, a nonzero CRC. No result is returned and no state changes but the mark. -/
def Obligations.UnvalidatedDecodeFaults : Prop :=
  ∀ (f : Bytes) (s : State),
    f.length < 4 ∨ f.length > 64 ∨ f[0]? ≠ some 0xA5 ∨ f[1]?.map BitVec.toNat ≠ some f.length ∨ crc8 hw f ≠ 0x00 →
    exec (.decodeValidated f) s =
      .next { s with faultMark := true, response := some (.fault (.decUnvalidated f.length)) }

/-- R127: the round trip at the framing layer, for every type and every payload of at most 60 bytes. -/
def Obligations.EncodeDecodeRoundTrip : Prop :=
  ∀ (typeId : Byte) (payload : Bytes) (s : State), payload.length ≤ 60 →
    valid hw (encodeFrame hw typeId payload) = true ∧
    exec (.encode typeId payload) s = .next { s with response := some (.ok (.frame (encodeFrame hw typeId payload))) } ∧
    exec (.decodeValidated (encodeFrame hw typeId payload)) s =
      .next { s with response := some (.ok (.decoded ⟨typeId, payload⟩)) }

/-- R120: the framer never reads or writes the parser buffer; what it answers is a function of its operands and the table. -/
def Obligations.FramerIsPure : Prop :=
  ∀ (i : Instr), unitOf i = .framer → ∀ (s s' t t' : State), exec i s = .next t → exec i s' = .next t' →
    t.buf = s.buf ∧ t.response = t'.response

/-- 20_memory.md R50: CRC and framer commands issued anywhere between parser commands change no TRY_PARSE_ONE reply and not the buffer,
nor what the next parser command answers; and what they answer does not depend on the parser commands around them. -/
def Obligations.InterleavedCommandsDoNotInterfere : Prop :=
  (∀ (cmds : List Instr) (s : State),
    (runCommands hw cmds s).replies = (runCommands hw (cmds.filter (fun i => unitOf i == .parser)) s).replies ∧
    (runCommands hw cmds s).state.buf =
      (runCommands hw (cmds.filter (fun i => unitOf i == .parser)) s).state.buf) ∧
  (∀ (cmds : List Instr) (i : Instr) (s t t' : State), unitOf i = .parser →
    exec i (runCommands hw cmds s).state = .next t →
    exec i (runCommands hw (cmds.filter (fun j => unitOf j == .parser)) s).state = .next t' →
    t.response = t'.response) ∧
  ∀ (i : Instr) (s s' t t' : State), unitOf i ≠ .parser → exec i s = .next t → exec i s' = .next t' →
    t.response = t'.response

/-! ## Stream parser (42_parser.md) -/

/-- R140: APPEND adds the bytes at the back and answers OK, never failing under the default capacity; an empty operand leaves `buf` as
it was; under a finite capacity it faults as R141 says, with `buf` unchanged. -/
def Obligations.AppendResult : Prop :=
  (∀ (data : Bytes) (s : State),
    exec (.append data) s = .next { s with buf := s.buf ++ data, response := some (.ok .empty) }) ∧
  (∀ (s : State), exec (.append []) s = .next { s with response := some (.ok .empty) }) ∧
  (∀ (cfg : Config) (n : Nat) (data : Bytes) (s : State), cfg.bufCap = some n →
    (s.buf.length + data.length > n → execWith cfg (.append data) s =
      .next { s with faultMark := true, response := some (.fault (.bufOverflow (s.buf.length + data.length))) }) ∧
    (s.buf.length + data.length ≤ n → execWith cfg (.append data) s =
      .next { s with buf := s.buf ++ data, response := some (.ok .empty) })) ∧
  ∀ (s : State), s.buf = [0xA5, 0x05] →
    exec (.append [0x01, 0x2A]) s = .next { s with buf := [0xA5, 0x05, 0x01, 0x2A], response := some (.ok .empty) }

/-- R144, outcome 1: no sync byte anywhere clears the buffer; on an empty buffer nothing changes. -/
def Obligations.NoSyncClearsTheBuffer : Prop :=
  (∀ s : State, SyncFree s.buf →
    exec .tryParseOne s =
      .next { s with buf := [], response := some (.ok (.parse ⟨.noSync, false, false, none⟩)) }) ∧
  (∀ s : State, s.buf = [] →
    exec .tryParseOne s = .next { s with response := some (.ok (.parse ⟨.noSync, false, false, none⟩)) }) ∧
  ∀ s : State, s.buf = [0x11, 0x22] →
    exec .tryParseOne s =
      .next { s with buf := [], response := some (.ok (.parse ⟨.noSync, false, false, none⟩)) }

/-- R146, outcome 2: fewer than HDR_MIN = 4 bytes from the leftmost sync byte on; only the garbage before it goes. A length byte is not
yet looked at, and a 4-byte frame passes the check. -/
def Obligations.ShortHeaderWaits : Prop :=
  (∀ (s : State) (g c : Bytes), CandidateAfter g c s.buf → c.length < 4 →
    exec .tryParseOne s =
      .next { s with buf := c, response := some (.ok (.parse ⟨.syncShort, false, false, none⟩)) }) ∧
  (∀ (s : State) (x y : Byte), s.buf = [0xA5] ∨ s.buf = [0xA5, x] ∨ s.buf = [0xA5, x, y] →
    exec .tryParseOne s = .next { s with response := some (.ok (.parse ⟨.syncShort, false, false, none⟩)) }) ∧
  (∀ (s : State) (t c : Byte), s.buf = [0xA5, 0x04, t, c] →
    ∃ u r, exec .tryParseOne s = .next u ∧ u.response = some (.ok (.parse r)) ∧ r.outcome ≠ .syncShort) ∧
  ∀ s : State, s.buf = [0x11, 0xA5, 0x05] →
    exec .tryParseOne s =
      .next { s with buf := [0xA5, 0x05], response := some (.ok (.parse ⟨.syncShort, false, false, none⟩)) }

/-- R147, outcome 3: an illegal declared length with at least 4 bytes drops the candidate sync byte and no other, without waiting for the
declared number of bytes; a length byte 0xA5 is itself rejected and is then the next candidate. -/
def Obligations.BadLengthDropsTheSyncByte : Prop :=
  (∀ (s : State) (g c : Bytes), CandidateAfter g c s.buf → 4 ≤ c.length →
    (byteAt c 1).toNat < 4 ∨ (byteAt c 1).toNat > 64 →
    exec .tryParseOne s =
      .next { s with buf := c.drop 1, response := some (.ok (.parse ⟨.badLength, true, false, none⟩)) }) ∧
  (∀ (s : State) (x y : Byte) (rest : Bytes), s.buf = 0xA5 :: 0xA5 :: x :: y :: rest →
    exec .tryParseOne s =
      .next { s with buf := 0xA5 :: x :: y :: rest, response := some (.ok (.parse ⟨.badLength, true, false, none⟩)) }) ∧
  ∀ s : State, s.buf = [0xA5, 0x00, 0x01, 0x02] →
    exec .tryParseOne s =
      .next { s with buf := [0x00, 0x01, 0x02], response := some (.ok (.parse ⟨.badLength, true, false, none⟩)) }

/-- R148, outcome 4: a legal length with too few bytes waits and drops only the garbage before the candidate; the CRC is not looked at,
and at most 63 bytes are left. -/
def Obligations.ShortFrameWaits : Prop :=
  (∀ (s : State) (g c : Bytes), CandidateAfter g c s.buf → 4 ≤ c.length →
    4 ≤ (byteAt c 1).toNat → (byteAt c 1).toNat ≤ 64 → c.length < (byteAt c 1).toNat →
    exec .tryParseOne s =
      .next { s with buf := c, response := some (.ok (.parse ⟨.lenShort, false, false, none⟩)) } ∧ c.length ≤ 63) ∧
  ∀ s : State, s.buf = [0xA5, 0x05, 0x01, 0x2A] →
    exec .tryParseOne s = .next { s with response := some (.ok (.parse ⟨.lenShort, false, false, none⟩)) }

/-- R149 and R150, outcomes 5 and 6 on the hardware, whatever its table: with a legal length and enough bytes, a nonzero CRC of the
declared slice drops the sync byte, and a zero CRC removes the frame and answers its type and payload. -/
def Obligations.WholeFrameIsJudgedByItsCrc : Prop :=
  ∀ (s : State) (g c : Bytes), CandidateAfter g c s.buf →
    4 ≤ (byteAt c 1).toNat → (byteAt c 1).toNat ≤ 64 → (byteAt c 1).toNat ≤ c.length →
    let f := c.take (byteAt c 1).toNat
    exec .tryParseOne s =
      if crc8 hw f ≠ 0x00 then
        .next { s with buf := c.drop 1, response := some (.ok (.parse ⟨.crcMismatch, true, false, none⟩)) }
      else
        .next { s with
          buf := c.drop (byteAt c 1).toNat
          response := some (.ok (.parse ⟨.success, true, true,
            some ⟨byteAt f 2, slice f 3 ((byteAt c 1).toNat - 1)⟩⟩)) }

/-- R149, outcome 5, under every table and capacity at HDR_MIN = 4; the example under the reference table. -/
def Obligations.CrcMismatchDropsTheSyncByte : Prop :=
  (∀ (cfg : Config) (s : State) (g c : Bytes), cfg.hdrMin = 4 → CandidateAfter g c s.buf →
    4 ≤ (byteAt c 1).toNat → (byteAt c 1).toNat ≤ 64 → (byteAt c 1).toNat ≤ c.length →
    crc8 cfg (c.take (byteAt c 1).toNat) ≠ 0x00 →
    execWith cfg .tryParseOne s =
      .next { s with buf := c.drop 1, response := some (.ok (.parse ⟨.crcMismatch, true, false, none⟩)) }) ∧
  crc8 referenceConfig [0xA5, 0x05, 0x01, 0x2A, 0x00] = 0x17 ∧
  ∀ s : State, s.buf = [0xA5, 0x05, 0x01, 0x2A, 0x00] →
    execWith referenceConfig .tryParseOne s =
      .next { s with
        buf := [0x05, 0x01, 0x2A, 0x00]
        response := some (.ok (.parse ⟨.crcMismatch, true, false, none⟩)) }

/-- R150, outcome 6: the frame's bytes go, the bytes behind it stay, and the answer is what DECODE_VALIDATED answers for the frame, with
`L - 4` payload bytes; the example under the reference table. -/
def Obligations.SuccessConsumesTheFrame : Prop :=
  (∀ (s : State) (g c : Bytes), CandidateAfter g c s.buf →
    4 ≤ (byteAt c 1).toNat → (byteAt c 1).toNat ≤ 64 → (byteAt c 1).toNat ≤ c.length →
    crc8 hw (c.take (byteAt c 1).toNat) = 0x00 →
    let f := c.take (byteAt c 1).toNat
    exec .tryParseOne s =
      .next { s with
        buf := c.drop (byteAt c 1).toNat
        response := some (.ok (.parse ⟨.success, true, true,
          some ⟨byteAt f 2, slice f 3 ((byteAt c 1).toNat - 1)⟩⟩)) } ∧
    valid hw f = true ∧
    exec (.decodeValidated f) s =
      .next { s with response := some (.ok (.decoded ⟨byteAt f 2, slice f 3 ((byteAt c 1).toNat - 1)⟩)) } ∧
    (slice f 3 ((byteAt c 1).toNat - 1)).length = (byteAt c 1).toNat - 4) ∧
  ∀ s : State, s.buf = [0x11, 0xA5, 0x05, 0x01, 0x2A, 0xB2, 0x33] →
    execWith referenceConfig .tryParseOne s =
      .next { s with buf := [0x33], response := some (.ok (.parse ⟨.success, true, true, some ⟨0x01, [0x2A]⟩⟩)) }

/-- R143, R145: bytes before the leftmost sync byte never change an outcome, a returned frame or the buffer left. -/
def Obligations.LeadingGarbageIsInvisible : Prop :=
  ∀ (cfg : Config) (g buf : Bytes), SyncFree g → parseBuf cfg (g ++ buf) = parseBuf cfg buf

/-- R72, R73, R74: every TRY_PARSE_ONE completes with a reply whose code is 1 to 6, whose indications are those of the table, and which
carries a packet of at most 60 payload bytes exactly when `message = 1`. -/
def Obligations.ParseRepliesFollowTheOutcomeTable : Prop :=
  (outcomeCode .noSync = 1 ∧ outcomeCode .syncShort = 2 ∧ outcomeCode .badLength = 3 ∧ outcomeCode .lenShort = 4 ∧
    outcomeCode .crcMismatch = 5 ∧ outcomeCode .success = 6) ∧
  ∀ s : State, ∃ t r, exec .tryParseOne s = .next t ∧ t.response = some (.ok (.parse r)) ∧
    outcomeCode r.outcome ≠ 0 ∧ outcomeCode r.outcome ≠ 7 ∧
    (r.progress = true ↔ r.outcome = .badLength ∨ r.outcome = .crcMismatch ∨ r.outcome = .success) ∧
    (r.message = true ↔ r.outcome = .success) ∧
    (r.message = true → ∃ p, r.packet = some p ∧ p.payload.length ≤ 60) ∧
    (r.message = false → r.packet = none)

/-- R151: RESET clears `buf`, keeps the mark, and is idempotent; its example. -/
def Obligations.ResetResult : Prop :=
  (∀ s : State, exec .reset s = .next { s with buf := [], response := some (.ok .empty) }) ∧
  (∀ s t : State, exec .reset s = .next t → exec .reset t = .next t) ∧
  ∀ s : State, s.buf = [0xA5, 0x05] → ∃ t, exec .reset s = .next t ∧ t.buf = []

/-- 20_memory.md R47: the CRC and framer commands have no side effect and repeat their result; APPEND changes `buf` exactly when its
operand is not empty; TRY_PARSE_ONE is idempotent exactly when its outcome makes no progress; RESET is idempotent. -/
def Obligations.SideEffectsAndIdempotency : Prop :=
  (∀ (i : Instr) (s t : State), unitOf i ≠ .parser → exec i s = .next t → t.buf = s.buf ∧ exec i t = .next t) ∧
  (∀ (data : Bytes) (s t : State), exec (.append data) s = .next t → (t.buf ≠ s.buf ↔ data ≠ [])) ∧
  (∀ (s t : State) (r : ParseReply), exec .tryParseOne s = .next t → t.response = some (.ok (.parse r)) →
    (exec .tryParseOne t = .next t ↔ r.outcome = .noSync ∨ r.outcome = .syncShort ∨ r.outcome = .lenShort)) ∧
  (∀ (s t : State), exec .reset s = .next t → exec .reset t = .next t)

/-- 20_memory.md R46: the amounts one TRY_PARSE_ONE removes from the front: nothing beyond the garbage before the candidate, one byte
more, one whole frame more, or (outcome 1) the whole buffer. -/
def Obligations.ParseRemovesOneOfFourAmounts : Prop :=
  ∀ (s t : State) (r : ParseReply), exec .tryParseOne s = .next t → t.response = some (.ok (.parse r)) →
    (r.outcome = .noSync ∧ SyncFree s.buf ∧ t.buf = []) ∨
    ∃ g c, CandidateAfter g c s.buf ∧
      ((r.outcome = .syncShort ∨ r.outcome = .lenShort) ∧ t.buf = c ∨
       (r.outcome = .badLength ∨ r.outcome = .crcMismatch) ∧ t.buf = c.drop 1 ∨
       r.outcome = .success ∧ t.buf = c.drop (byteAt c 1).toNat ∧ (byteAt c 1).toNat ≤ c.length)

/-- R152: an outcome without progress removed only bytes that are no sync byte, and a second TRY_PARSE_ONE with no APPEND between gives
the same answer and leaves the buffer. -/
def Obligations.EmptyPollIsIdempotent : Prop :=
  ∀ (s t : State) (r : ParseReply), exec .tryParseOne s = .next t → t.response = some (.ok (.parse r)) →
    r.outcome = .noSync ∨ r.outcome = .syncShort ∨ r.outcome = .lenShort →
    exec .tryParseOne t = .next t ∧ ∃ removed, s.buf = removed ++ t.buf ∧ SyncFree removed

/-- R153: outcomes 3 and 5 remove `i + 1` bytes and outcome 6 removes `i + L ≥ 4`, with `i` the garbage before the candidate; so a drain
of `m` bytes makes at most `m + 1` calls, every reply but the last makes progress, and the last makes none. -/
def Obligations.DrainTerminates : Prop :=
  (∀ (s t : State) (r : ParseReply), exec .tryParseOne s = .next t → t.response = some (.ok (.parse r)) →
    ∀ g c, CandidateAfter g c s.buf →
      ((r.outcome = .badLength ∨ r.outcome = .crcMismatch) → t.buf.length + (g.length + 1) = s.buf.length) ∧
      (r.outcome = .success → t.buf.length + (g.length + (byteAt c 1).toNat) = s.buf.length ∧ 4 ≤ (byteAt c 1).toNat)) ∧
  (∀ (cfg : Config) (s : State), ∃ init last,
    (drain cfg s).replies = init ++ [last] ∧ (∀ r ∈ init, r.progress = true) ∧ last.progress = false ∧
    (drain cfg s).replies.length ≤ s.buf.length + 1) ∧
  ∀ (cfg : Config) (s : State) (fuel : Nat), s.buf.length + 1 ≤ fuel → drainLoop cfg fuel s = drain cfg s

/-- R154: the three forms of `buf` when a drain ends, each with the outcome that ended it; in every case at most 63 bytes. -/
def Obligations.DrainEndsInOneOfThreeForms : Prop :=
  ∀ s : State, ∃ r, (drain hw s).replies.getLast? = some r ∧
    (let buf := (drain hw s).state.buf
     (r.outcome = .noSync ∧ buf = [] ∨
      r.outcome = .syncShort ∧ byteAt buf 0 = SYNC ∧ 1 ≤ buf.length ∧ buf.length ≤ 3 ∨
      r.outcome = .lenShort ∧ byteAt buf 0 = SYNC ∧ 4 ≤ (byteAt buf 1).toNat ∧ (byteAt buf 1).toNat ≤ 64 ∧
        4 ≤ buf.length ∧ buf.length < (byteAt buf 1).toNat) ∧
     buf.length ≤ 63)

/-- R155: chunking independence, for every table and both readings of HDR_MIN, with an unbounded buffer: any way of appending a stream,
with any TRY_PARSE_ONE (and any CRC or framer) commands between, and a full drain at the end, gives the packets, the progress replies
and the final buffer of appending the whole stream and draining. -/
def Obligations.ChunkingDoesNotMatter : Prop :=
  ∀ (cfg : Config) (cmds : List Instr) (s : State), cfg.bufCap = none → s.buf = [] →
    (∀ i ∈ cmds, keepsStream i = true) →
    let pieces := runCommands cfg cmds s
    let last := drain cfg pieces.state
    let whole := feed cfg (appendedBytes cmds) s
    packets (pieces.replies ++ last.replies) = packets whole.replies ∧
    progressReplies (pieces.replies ++ last.replies) = progressReplies whole.replies ∧
    last.state.buf = whole.state.buf

/-- R156: a clean frame into a fresh parser gives exactly one SUCCESS with its pair and then NO_SYNC, and leaves the buffer empty. -/
def Obligations.CleanFrameIsDelivered : Prop :=
  ∀ (typeId : Byte) (payload : Bytes) (s : State), payload.length ≤ 60 → s.buf = [] →
    (feed hw (encodeFrame hw typeId payload) s).replies =
      [⟨.success, true, true, some ⟨typeId, payload⟩⟩, ⟨.noSync, false, false, none⟩] ∧
    (feed hw (encodeFrame hw typeId payload) s).state.buf = []

/-- R157: under the premise NoAccidentalFrame, garbage and then two frames, fed in any chunking and drained after the last byte, gives
exactly the two pairs in order and leaves the buffer empty. -/
def Obligations.ResynchronisesPastGarbage : Prop :=
  ∀ (cfg : Config) (garbage : Bytes) (typeA typeB : Byte) (payloadA payloadB : Bytes) (cmds : List Instr) (s : State),
    cfg.hdrMin = 4 → cfg.bufCap = none → payloadA.length ≤ 60 → payloadB.length ≤ 60 → s.buf = [] →
    NoAccidentalFrame cfg garbage (encodeFrame cfg typeA payloadA ++ encodeFrame cfg typeB payloadB) →
    (∀ i ∈ cmds, keepsStream i = true) →
    appendedBytes cmds = garbage ++ (encodeFrame cfg typeA payloadA ++ encodeFrame cfg typeB payloadB) →
    let pieces := runCommands cfg cmds s
    let last := drain cfg pieces.state
    packets (pieces.replies ++ last.replies) = [⟨typeA, payloadA⟩, ⟨typeB, payloadB⟩] ∧ last.state.buf = []

/-- R158 (a): when the table detects single-bit changes, a frame with one bit of its type, payload or checksum changed is answered with
CRC_MISMATCH, whatever bytes follow it. -/
def Obligations.CorruptedFrameIsRejected : Prop :=
  ∀ (cfg : Config) (typeId : Byte) (payload l r rest : Bytes) (b : Byte) (k : Nat) (s : State),
    cfg.hdrMin = 4 → DetectsSingleBit cfg → payload.length ≤ 60 → k < 8 → 2 ≤ l.length →
    encodeFrame cfg typeId payload = l ++ b :: r → s.buf = (l ++ flipBit k b :: r) ++ rest →
    execWith cfg .tryParseOne s =
      .next { s with
        buf := ((l ++ flipBit k b :: r) ++ rest).drop 1
        response := some (.ok (.parse ⟨.crcMismatch, true, false, none⟩)) }

/-- R160: the parser does not interpret a frame: one with any type and any payload is answered with outcome 6 and its own pair, and the
bytes behind it stay. -/
def Obligations.AnyEncodedFrameIsExtracted : Prop :=
  ∀ (typeId : Byte) (payload garbage rest : Bytes) (s : State), payload.length ≤ 60 → SyncFree garbage →
    s.buf = garbage ++ encodeFrame hw typeId payload ++ rest →
    exec .tryParseOne s =
      .next { s with buf := rest, response := some (.ok (.parse ⟨.success, true, true, some ⟨typeId, payload⟩⟩)) }

/-- R167: an owner that drains after every APPEND of at most `k` bytes never has more than `63 + k` bytes in the buffer, right after the
APPEND and after every TRY_PARSE_ONE that follows it; so a capacity of at least `63 + k` never raises BUF_OVERFLOW. -/
def Obligations.DrainedBufferIsBounded : Prop :=
  ∀ (cfg : Config) (k : Nat) (before : List Bytes) (chunk : Bytes) (s : State),
    cfg.hdrMin = 4 → (∀ n, cfg.bufCap = some n → 63 + k ≤ n) → s.buf = [] →
    (∀ c ∈ before, c.length ≤ k) → chunk.length ≤ k →
    let u := (feedAll cfg before s).state
    u.faultMark = s.faultMark ∧ u.buf.length ≤ 63 ∧
    ∃ t, execWith cfg (.append chunk) u = .next t ∧ t.response = some (.ok .empty) ∧ t.buf.length ≤ 63 + k ∧
      ∀ calls, (runCommands cfg (List.replicate calls .tryParseOne) t).state.buf.length ≤ 63 + k

/-- A finite buffer never holds more than its capacity: every step of the machine with `BUF_CAP = some n` keeps it (R141). -/
def Obligations.BufferStaysWithinCapacity : Prop :=
  ∀ (cfg : Config) (n : Nat) (s t : State), cfg.bufCap = some n → s.buf.length ≤ n →
    stepWith cfg s = .next t → t.buf.length ≤ n

/-! ## The invariant of the machine -/

/-- Every step keeps the port invariant (`PortInv`, Safety.lean), from every state that meets it. -/
def Obligations.StepKeepsThePortInvariant : Prop :=
  ∀ s t : State, PortInv s → step s = .next t → PortInv t

/-- The port invariant holds at reset: no response stands on the port there, which is the model's choice (log entry 3), not a value the
spec gives; with no response each of the invariant's clauses is met. -/
def Obligations.ResetMeetsThePortInvariant : Prop :=
  PortInv State.reset

/-- An empty buffer is within every capacity, so the machine with a finite buffer starts within it (R200, R141). -/
def Obligations.ResetIsWithinCapacity : Prop :=
  ∀ (cfg : Config) (n : Nat), cfg.bufCap = some n → State.reset.buf.length ≤ n
end

