-- ==== Sys2Proof/Laws/Crc.lean ====
section
/-! SUPPORT. The CRC fold (40_crc.md), for every table. -/

namespace Sys2Proof.Machine

/-- The first 8 bits of a sequence are those of its first byte. -/
theorem bitAt_cons_lt (order : BitOrder) (x : Byte) (s : Bytes) (i : Nat) (h : i < 8) :
    bitAt order (x :: s) i = x.getLsbD (bitPlace order i) := by
  simp [bitAt, byteAt, Nat.div_eq_of_lt h, Nat.mod_eq_of_lt h]

/-- Behind them come the bits of the rest. -/
theorem bitAt_cons_add (order : BitOrder) (x : Byte) (s : Bytes) (i : Nat) :
    bitAt order (x :: s) (i + 8) = bitAt order s i := by
  simp [bitAt, byteAt, Nat.add_div_right]

/-- A burst that starts behind the first byte leaves it, and is a burst of the rest, 8 bits earlier. -/
theorem differWithinBurst_tail {order : BitOrder} {p : Nat} {x y : Byte} {s t : Bytes}
    (h : DifferWithinBurst order (p + 8) (x :: s) (y :: t)) : DifferWithinBurst order p s t := by
  intro i hi
  have := h (i + 8) (by rwa [bitAt_cons_add, bitAt_cons_add])
  omega

theorem crc8_nil (cfg : Config) : crc8 cfg [] = 0 := rfl

/-- Continuing over one more byte is one table step. -/
theorem crc8_concat (cfg : Config) (s : Bytes) (b : Byte) : crc8 cfg (s ++ [b]) = crcStep cfg (crc8 cfg s) b := by
  simp [crc8]

theorem crcStep_self (cfg : Config) (b : Byte) : crcStep cfg b b = 0 := by
  simpa [crcStep] using cfg.crcTable_zero

/-- From equal accumulators on, a permutation table keeps different accumulators different. -/
theorem foldl_crcStep_injective {cfg : Config} (h : Function.Injective cfg.crcTable) (s : Bytes) :
    Function.Injective (fun acc => s.foldl (crcStep cfg) acc) := by
  induction s with
  | nil => exact fun _ _ e => e
  | cons x xs ih =>
    intro a b e
    have : a ^^^ x = b ^^^ x := h (ih e)
    simpa using congrArg (· ^^^ x) this

/-- A permutation table detects every single-bit change at fixed length (40_crc.md R106). -/
theorem detectsSingleBit_of_injective {cfg : Config} (h : Function.Injective cfg.crcTable) : DetectsSingleBit cfg := by
  intro l r b k hk e
  simp only [crc8, List.foldl_append, List.foldl_cons] at e
  have hx := h (foldl_crcStep_injective h r e)
  have hb : flipBit k b = b := by
    simpa [← BitVec.xor_assoc] using congrArg (fun x => List.foldl (crcStep cfg) 0 l ^^^ x) hx
  have h0 := congrArg (b ^^^ ·) hb
  simp only [flipBit, ← BitVec.xor_assoc, BitVec.xor_self, BitVec.zero_xor] at h0
  exact (by decide : ∀ k, k < 8 → ¬ BitVec.ofNat 8 (2 ^ k) = 0) k hk h0

end Sys2Proof.Machine
end

