-- ==== Sys2Proof/Laws/Decode.lean ====
section
/-! SUPPORT. What the decoder's parts answer (Decode.lean): each lemma says what a successful part knows of its input. -/

namespace Sys2Proof

theorem opcodeByte_of_opcodeOf {op : Byte} {row : Opcode} (h : opcodeOf op = some row) : op = opcodeByte row := by
  have := List.find?_some h
  simpa using (beq_iff_eq.1 this).symm

theorem twoU8_eq_some {l : List Operand} {p : Byte × Byte} (h : twoU8 l = some p) : l = [.u8 p.1, .u8 p.2] := by
  unfold twoU8 at h; split at h <;> simp at h; subst h; rfl

theorem oneBytes_eq_some {l : List Operand} {bs : Bytes} (h : oneBytes l = some bs) : l = [.bytes bs] := by
  unfold oneBytes at h; split at h <;> simp at h; subst h; rfl

theorem u8AndBytes_eq_some {l : List Operand} {p : Byte × Bytes} (h : u8AndBytes l = some p) :
    l = [.u8 p.1, .bytes p.2] := by
  unfold u8AndBytes at h; split at h <;> simp at h; subst h; rfl

theorem noOperands_eq_some {l : List Operand} {u : Unit} (h : noOperands l = some u) : l = [] := by
  unfold noOperands at h; split at h <;> simp at h; rfl

/-- A row and operands that make an instruction are that instruction's own row and operands. -/
theorem instrOf_eq_some {row : Opcode} {ops : List Operand} {i : Instr} (h : instrOf row ops = some i) :
    row = opcodeFor i ∧ ops = operandsFor i := by
  cases row <;> simp only [instrOf, Option.map_eq_some_iff] at h <;> obtain ⟨p, hp, rfl⟩ := h
  · exact ⟨rfl, twoU8_eq_some hp⟩
  · exact ⟨rfl, oneBytes_eq_some hp⟩
  · exact ⟨rfl, u8AndBytes_eq_some hp⟩
  · exact ⟨rfl, oneBytes_eq_some hp⟩
  · exact ⟨rfl, oneBytes_eq_some hp⟩
  · exact ⟨rfl, noOperands_eq_some hp⟩
  · exact ⟨rfl, noOperands_eq_some hp⟩

/-- Everything the decoder can answer, each with its condition. -/
theorem decode_cases (c : Command) :
    (opcodeOf c.op = none ∧ decode c = .reserved c.op) ∨
    (∃ row, opcodeOf c.op = some row ∧ instrOf row c.operands = none ∧ decode c = .malformed c.op) ∨
    (∃ row i, opcodeOf c.op = some row ∧ instrOf row c.operands = some i ∧ decode c = .instr i) := by
  unfold decode
  cases h : opcodeOf c.op with
  | none => exact .inl ⟨rfl, rfl⟩
  | some row =>
    cases h' : instrOf row c.operands with
    | none => exact .inr (.inl ⟨row, rfl, h', by simp [h']⟩)
    | some i => exact .inr (.inr ⟨row, i, rfl, h', by simp [h']⟩)

end Sys2Proof
end

