-- ==== Sys2Proof/Laws/Operands.lean ====
section
/-! SUPPORT. The byte-sequence primitives (Machine/Operands.lean). -/

namespace Sys2Proof.Machine

theorem slice_from_zero (s : Bytes) (j : Nat) : slice s 0 j = s.take j := rfl

/-- Inside the sequence, `byteAt` is the list's own indexing. -/
theorem getElem?_eq_byteAt {s : Bytes} {i : Nat} (h : i < s.length) : s[i]? = some (byteAt s i) := by
  simp [byteAt, List.getD, h]

theorem byteAt_take {s : Bytes} {i n : Nat} (h : i < n) : byteAt (s.take n) i = byteAt s i := by
  simp [byteAt, List.getD, h]

theorem byteAt_append {a b : Bytes} {i : Nat} (h : i < a.length) : byteAt (a ++ b) i = byteAt a i := by
  simp [byteAt, List.getD, List.getElem?_append_left h]

/-- No sync byte is found exactly when there is none. -/
theorem findFirst_eq_none_iff (b : Byte) (s : Bytes) : findFirst b s = none ↔ ∀ x ∈ s, x ≠ b := by
  induction s with
  | nil => simp [findFirst]
  | cons x xs ih =>
    by_cases hx : x = b <;> simp [findFirst, hx, ih]

/-- The first occurrence stands behind everything that is not `b`. -/
theorem findFirst_append {b : Byte} {g : Bytes} (hg : ∀ x ∈ g, x ≠ b) (r : Bytes) :
    findFirst b (g ++ r) = (findFirst b r).map (· + g.length) := by
  induction g with
  | nil => cases h : findFirst b r <;> simp [h]
  | cons x xs ih =>
    have hx : x ≠ b := hg x (by simp)
    have := ih (fun y hy => hg y (by simp [hy]))
    cases h : findFirst b r <;> simp_all [findFirst]
    omega

/-- What finding an index says: the bytes before it are not `b`, and it holds `b`. -/
theorem findFirst_eq_some {b : Byte} {s : Bytes} {i : Nat} (h : findFirst b s = some i) :
    ∃ g r, s = g ++ b :: r ∧ g.length = i ∧ ∀ x ∈ g, x ≠ b := by
  induction s generalizing i with
  | nil => simp [findFirst] at h
  | cons x xs ih =>
    by_cases hx : x = b
    · simp only [findFirst, hx, if_true, Option.some.injEq] at h
      exact ⟨[], xs, by simp [hx], by simpa using h, by simp⟩
    · simp only [findFirst, hx, if_false, Option.map_eq_some_iff] at h
      obtain ⟨j, hj, rfl⟩ := h
      obtain ⟨g, r, rfl, rfl, hg⟩ := ih hj
      exact ⟨x :: g, r, by simp, by simp, by simpa [hx] using hg⟩

end Sys2Proof.Machine
end

