-- ==== Sys2Proof/Laws/Framer.lean ====
section
/-! SUPPORT. The framer's shared operations (Machine/Framer.lean). -/

namespace Sys2Proof.Machine

theorem encodeFrame_length (cfg : Config) (typeId : Byte) (payload : Bytes) :
    (encodeFrame cfg typeId payload).length = payload.length + 4 := by
  simp [encodeFrame, frameHead]

/-- No wrap of the length byte in the legal range (41_framer.md R121). -/
theorem lengthByte_toNat {payload : Bytes} (h : payload.length ≤ 60) :
    (lengthByte payload).toNat = payload.length + 4 := by
  simp [lengthByte, META_LEN]; omega

theorem headerOk_iff (f : Bytes) :
    headerOk f = true ↔
      4 ≤ f.length ∧ f.length ≤ 64 ∧ f[0]? = some SYNC ∧ f[1]?.map BitVec.toNat = some f.length := by
  simp only [headerOk, Bool.and_eq_true, decide_eq_true_eq, beq_iff_eq, and_assoc]

end Sys2Proof.Machine
end

