-- ==== Sys2Proof/Laws/State.lean ====
section
/-! SUPPORT. One lemma per field per state update (Machine/Ops.lean), and what the two ways of ending a command do. -/

namespace Sys2Proof.Machine

@[simp] theorem setBuf_buf (v : Bytes) (s : State) : (setBuf v s).buf = v := rfl
@[simp] theorem setBuf_faultMark (v : Bytes) (s : State) : (setBuf v s).faultMark = s.faultMark := rfl
@[simp] theorem setBuf_response (v : Bytes) (s : State) : (setBuf v s).response = s.response := rfl
@[simp] theorem setBuf_pending (v : Bytes) (s : State) : (setBuf v s).pending = s.pending := rfl

@[simp] theorem respond_buf (r : Response) (s : State) : (respond r s).buf = s.buf := rfl
@[simp] theorem respond_faultMark (r : Response) (s : State) : (respond r s).faultMark = s.faultMark := rfl
@[simp] theorem respond_response (r : Response) (s : State) : (respond r s).response = some r := rfl
@[simp] theorem respond_pending (r : Response) (s : State) : (respond r s).pending = s.pending := rfl

@[simp] theorem setFaultMark_buf (s : State) : (setFaultMark s).buf = s.buf := rfl
@[simp] theorem setFaultMark_faultMark (s : State) : (setFaultMark s).faultMark = true := rfl
@[simp] theorem setFaultMark_response (s : State) : (setFaultMark s).response = s.response := rfl
@[simp] theorem setFaultMark_pending (s : State) : (setFaultMark s).pending = s.pending := rfl

@[simp] theorem idle_buf (s : State) : (idle s).buf = s.buf := rfl
@[simp] theorem idle_faultMark (s : State) : (idle s).faultMark = s.faultMark := rfl
@[simp] theorem idle_response (s : State) : (idle s).response = none := rfl
@[simp] theorem idle_pending (s : State) : (idle s).pending = s.pending := rfl

@[simp] theorem setPending_buf (l : List Command) (s : State) : (setPending l s).buf = s.buf := rfl
@[simp] theorem setPending_faultMark (l : List Command) (s : State) : (setPending l s).faultMark = s.faultMark := rfl
@[simp] theorem setPending_response (l : List Command) (s : State) : (setPending l s).response = s.response := rfl
@[simp] theorem setPending_pending (l : List Command) (s : State) : (setPending l s).pending = l := rfl

@[simp] theorem issueFirst_buf (c : Command) (s : State) : (issueFirst c s).buf = s.buf := rfl
@[simp] theorem issueFirst_faultMark (c : Command) (s : State) : (issueFirst c s).faultMark = s.faultMark := rfl
@[simp] theorem issueFirst_response (c : Command) (s : State) : (issueFirst c s).response = s.response := rfl
@[simp] theorem issueFirst_pending (c : Command) (s : State) : (issueFirst c s).pending = c :: s.pending := rfl

/-- Completing a command always answers a next state: only the response is written. -/
theorem complete_next_iff (r : Result) (s t : State) : complete r s = .next t ↔ t = respond (.ok r) s := by
  unfold complete; constructor <;> intro h
  · injection h with h; exact h.symm
  · rw [h]

/-- A model fault always answers a next state: only the response and the mark are written. -/
theorem raiseFault_next_iff (f : Fault) (s t : State) :
    raiseFault f s = .next t ↔ t = respond (.fault f) (setFaultMark s) := by
  unfold raiseFault; constructor <;> intro h
  · injection h with h; exact h.symm
  · rw [h]

/-- Everything issuing a command can do, when the command's meaning `run` answers a next state: idle, run the decoded command, take
ILLEGAL_COMMAND. -/
theorem issue_next_cases {run : Instr → State → StepOutcome} {s t : State} (h : issue run s = .next t) :
    (s.pending = [] ∧ t = idle s) ∨
    (∃ c rest i, s.pending = c :: rest ∧ decode c = .instr i ∧ run i (setPending rest s) = .next t) ∨
    (∃ c rest op, s.pending = c :: rest ∧ decode c = .reserved op ∧
      t = respond (.fault (.illegalCommand op)) (setFaultMark (setPending rest s))) := by
  unfold issue at h
  split at h
  · case _ hp => injection h with h; exact .inl ⟨hp, h.symm⟩
  · case _ c rest hp =>
    split at h
    · case _ i hd => exact .inr (.inl ⟨c, rest, i, hp, hd, h⟩)
    · case _ op hd => exact .inr (.inr ⟨c, rest, op, hp, hd, (raiseFault_next_iff _ _ _).1 h⟩)
    · cases h

end Sys2Proof.Machine
end

