-- ==== Sys2Proof/Laws/Parser.lean ====
section
/-! SUPPORT. The parser's shared operations (Machine/Parser.lean): what the search, the candidate check and the whole parse do. -/

namespace Sys2Proof.Machine

/-- Everything before the leftmost sync byte is dropped before the candidate is examined. -/
theorem parseBuf_candidate {g c buf : Bytes} (cfg : Config) (h : CandidateAfter g c buf) :
    parseBuf cfg buf = parseCandidate cfg c := by
  obtain ⟨rfl, hg, hc⟩ := h
  cases c with
  | nil => simp at hc
  | cons x xs =>
    obtain rfl : x = SYNC := by simpa using hc
    simp [parseBuf, findFirst_append hg, findFirst]

theorem parseBuf_syncFree {buf : Bytes} (cfg : Config) (h : SyncFree buf) :
    parseBuf cfg buf = ⟨bareReply .noSync, []⟩ := by
  simp [parseBuf, (findFirst_eq_none_iff SYNC buf).2 h]

/-- A buffer has no sync byte, or is garbage and a candidate. -/
theorem syncFree_or_candidate (buf : Bytes) : SyncFree buf ∨ ∃ g c, CandidateAfter g c buf := by
  cases h : findFirst SYNC buf with
  | none => exact .inl ((findFirst_eq_none_iff SYNC buf).1 h)
  | some i =>
    obtain ⟨g, r, hb, -, hg⟩ := findFirst_eq_some h
    exact .inr ⟨g, SYNC :: r, hb, hg, by simp⟩

/-- Everything the candidate check can answer (42_parser.md R146 to R150), each with its condition. -/
theorem parseCandidate_cases (cfg : Config) (c : Bytes) :
    (c.length < cfg.hdrMin ∧ parseCandidate cfg c = ⟨bareReply .syncShort, c⟩) ∨
    (cfg.hdrMin ≤ c.length ∧ ((byteAt c 1).toNat < 4 ∨ 64 < (byteAt c 1).toNat) ∧
      parseCandidate cfg c = ⟨bareReply .badLength, c.drop 1⟩) ∨
    (cfg.hdrMin ≤ c.length ∧ 4 ≤ (byteAt c 1).toNat ∧ (byteAt c 1).toNat ≤ 64 ∧ c.length < (byteAt c 1).toNat ∧
      parseCandidate cfg c = ⟨bareReply .lenShort, c⟩) ∨
    (cfg.hdrMin ≤ c.length ∧ 4 ≤ (byteAt c 1).toNat ∧ (byteAt c 1).toNat ≤ 64 ∧ (byteAt c 1).toNat ≤ c.length ∧
      crc8 cfg (c.take (byteAt c 1).toNat) ≠ 0 ∧ parseCandidate cfg c = ⟨bareReply .crcMismatch, c.drop 1⟩) ∨
    (cfg.hdrMin ≤ c.length ∧ 4 ≤ (byteAt c 1).toNat ∧ (byteAt c 1).toNat ≤ 64 ∧ (byteAt c 1).toNat ≤ c.length ∧
      crc8 cfg (c.take (byteAt c 1).toNat) = 0 ∧
      parseCandidate cfg c =
        ⟨messageReply (packetOf (c.take (byteAt c 1).toNat)), c.drop (byteAt c 1).toNat⟩) := by
  unfold parseCandidate
  simp only [slice_from_zero]
  by_cases h1 : c.length < cfg.hdrMin
  · exact .inl ⟨h1, if_pos h1⟩
  refine .inr ?_
  rw [if_neg h1]
  by_cases h2 : (byteAt c 1).toNat < 4 ∨ (byteAt c 1).toNat > 64
  · exact .inl ⟨by omega, h2, if_pos h2⟩
  refine .inr ?_
  rw [if_neg h2]
  by_cases h3 : c.length < (byteAt c 1).toNat
  · exact .inl ⟨by omega, by omega, by omega, h3, if_pos h3⟩
  refine .inr ?_
  rw [if_neg h3]
  by_cases h4 : crc8 cfg (c.take (byteAt c 1).toNat) ≠ 0x00
  · exact .inl ⟨by omega, by omega, by omega, by omega, h4, if_pos h4⟩
  · exact .inr ⟨by omega, by omega, by omega, by omega, not_not.1 h4, if_neg h4⟩

/-- Everything a whole parse can answer: no sync byte, or a candidate and one of its five cases. -/
theorem parseBuf_cases (cfg : Config) (buf : Bytes) :
    (SyncFree buf ∧ parseBuf cfg buf = ⟨bareReply .noSync, []⟩) ∨
    ∃ g c, CandidateAfter g c buf ∧ parseBuf cfg buf = parseCandidate cfg c := by
  rcases syncFree_or_candidate buf with h | ⟨g, c, h⟩
  · exact .inl ⟨h, parseBuf_syncFree cfg h⟩
  · exact .inr ⟨g, c, h, parseBuf_candidate cfg h⟩

/-- An outcome with progress leaves a shorter buffer. -/
theorem parseBuf_progress_shrinks (cfg : Config) (buf : Bytes) (h : (parseBuf cfg buf).reply.progress = true) :
    (parseBuf cfg buf).buf.length < buf.length := by
  have hmin : 4 ≤ cfg.hdrMin := cfg.hdrMin_ge
  rcases parseBuf_cases cfg buf with ⟨_, e⟩ | ⟨g, c, hc, e⟩
  · rw [e] at h; simp [bareReply, outcomeProgress] at h
  · have hl := congrArg List.length hc.1
    rw [List.length_append] at hl
    rw [e] at h ⊢
    rcases parseCandidate_cases cfg c with ⟨_, e⟩ | ⟨_, _, e⟩ | ⟨_, _, _, _, e⟩ | ⟨_, _, _, _, _, e⟩ | ⟨_, _, _, _, _, e⟩ <;>
      rw [e] at h ⊢ <;> simp [bareReply, messageReply, outcomeProgress] at h ⊢ <;> omega

end Sys2Proof.Machine
end

