-- ==== Sys2Proof/Laws/Drain.lean ====
section
/-! SUPPORT. The drain loop (42_parser.md R164), one turn at a time. -/

namespace Sys2Proof.Machine

/-- The state a TRY_PARSE_ONE leaves. -/
theorem runTryParseOne_eq (cfg : Config) (s : State) :
    runTryParseOne cfg s =
      .next (respond (.ok (.parse (parseBuf cfg s.buf).reply)) (setBuf (parseBuf cfg s.buf).buf s)) := rfl

@[simp] theorem parseReply_respond_parse (r : ParseReply) (s : State) :
    parseReply (respond (.ok (.parse r)) s) = some r := rfl

/-- One turn of the loop: parse, and go on exactly when the reply makes progress. -/
theorem drainLoop_succ (cfg : Config) (k : Nat) (s : State) :
    drainLoop cfg (k + 1) s =
      let t := respond (.ok (.parse (parseBuf cfg s.buf).reply)) (setBuf (parseBuf cfg s.buf).buf s)
      if (parseBuf cfg s.buf).reply.progress then
        ⟨(drainLoop cfg k t).state, (parseBuf cfg s.buf).reply :: (drainLoop cfg k t).replies⟩
      else ⟨t, [(parseBuf cfg s.buf).reply]⟩ := rfl

end Sys2Proof.Machine
end

