-- ==== Sys2Proof/Laws/Machine.lean ====
section
/-! SUPPORT. `exec` and `step` are the configured machine at `hw`, and everything a command can do. -/

namespace Sys2Proof.Machine

theorem exec_eq_execWith (i : Instr) (s : State) : exec i s = execWith hw i s := by
  cases i <;> rfl

theorem step_eq_stepWith (s : State) : step s = stepWith hw s := by
  simp only [step, stepWith, show exec = execWith hw from funext fun i => funext fun s => exec_eq_execWith i s]

/-- A command completes, writing no more than the buffer and the response, or takes a model fault. -/
theorem execWith_cases (cfg : Config) (i : Instr) (s : State) :
    (∃ r v, execWith cfg i s = complete r (setBuf v s)) ∨ (∃ f, execWith cfg i s = raiseFault f s) := by
  cases i with
  | crcStep acc b => exact .inl ⟨_, s.buf, rfl⟩
  | crc8 data => exact .inl ⟨_, s.buf, rfl⟩
  | encode typeId payload =>
    by_cases h : payload.length > MAX_PAYLOAD
    · exact .inr ⟨_, if_pos h⟩
    · exact .inl ⟨_, s.buf, if_neg h⟩
  | decodeValidated frame =>
    by_cases h : valid cfg frame = true
    · exact .inl ⟨_, s.buf, if_pos h⟩
    · exact .inr ⟨_, if_neg h⟩
  | append data =>
    by_cases h : exceeds cfg.bufCap (s.buf.length + data.length) = true
    · exact .inr ⟨_, if_pos h⟩
    · exact .inl ⟨_, _, if_neg h⟩
  | tryParseOne => exact .inl ⟨_, _, rfl⟩
  | reset => exact .inl ⟨_, _, rfl⟩

end Sys2Proof.Machine
end

