-- ==== Sys2Proof/Laws/PerInstr.lean ====
section
/-! SUPPORT. The per-instruction family `Shape`: the opcode an instruction is encoded with selects its own row of the table, and its
operand list is the row's own (30_encoding.md R69, R76). -/

namespace Sys2Proof.Laws.Shape

/-- The encoded opcode selects the instruction's row, and the encoded operand list is the fixed list that row takes. -/
def Statement (i : Instr) : Prop :=
  opcodeOf (encode i).op = some (opcodeFor i) ∧ instrOf (opcodeFor i) (encode i).operands = some i

theorem crcStep (acc b : Byte) : Statement (.crcStep acc b) := ⟨rfl, rfl⟩
theorem crc8 (data : Bytes) : Statement (.crc8 data) := ⟨rfl, rfl⟩
theorem encode (typeId : Byte) (payload : Bytes) : Statement (.encode typeId payload) := ⟨rfl, rfl⟩
theorem decodeValidated (frame : Bytes) : Statement (.decodeValidated frame) := ⟨rfl, rfl⟩
theorem append (data : Bytes) : Statement (.append data) := ⟨rfl, rfl⟩
theorem tryParseOne : Statement .tryParseOne := ⟨rfl, rfl⟩
theorem reset : Statement .reset := ⟨rfl, rfl⟩

end Sys2Proof.Laws.Shape
end

