-- ==== Sys2Proof/Tests/Slice0.lean ====
section
/-! SUPPORT. Tests of the model against the spec's own vectors (95_test_vectors.md), and one witness per statement with hypotheses. -/

namespace Sys2Proof.Tests

open Machine

/-! ## Well-formedness (30_encoding.md R71) -/

theorem test_wf_encode_60 : WellFormed (.encode 0x82 (List.replicate 60 0)) = true := by decide
theorem test_wf_encode_61_refused : WellFormed (.encode 0x82 (List.replicate 61 0)) = false := by decide
theorem test_wf_frame : WellFormed (.decodeValidated [0xA5, 0x04, 0x00, 0xDC]) = true := by decide
theorem test_wf_short_frame_refused : WellFormed (.decodeValidated [0xA5, 0x03, 0x00]) = false := by decide
theorem test_wf_long_frame_refused :
    WellFormed (.decodeValidated ([0xA5, 0x41] ++ List.replicate 63 0)) = false := by decide
theorem test_wf_no_sync_refused : WellFormed (.decodeValidated [0xA4, 0x04, 0x00, 0xDC]) = false := by decide
theorem test_wf_wrong_length_refused : WellFormed (.decodeValidated [0xA5, 0x06, 0x01, 0x2A, 0xB2]) = false := by decide

/-! ## Decoding: opcodes written bit by bit, `op[7:4]` the unit and `op[3:0]` the function (30_encoding.md R68, R69) -/

theorem test_decode_crc_step :
    decode ⟨0b0000_0001, [.u8 0xA5, .u8 0x05]⟩ = .instr (.crcStep 0xA5 0x05) := by decide
theorem test_decode_crc8 : decode ⟨0b0000_0010, [.bytes [0xA5, 0x05]]⟩ = .instr (.crc8 [0xA5, 0x05]) := by decide
theorem test_decode_encode :
    decode ⟨0b0001_0000, [.u8 0x01, .bytes [0x2A]]⟩ = .instr (.encode 0x01 [0x2A]) := by decide
theorem test_decode_decode_validated :
    decode ⟨0b0001_0001, [.bytes [0xA5]]⟩ = .instr (.decodeValidated [0xA5]) := by decide
theorem test_decode_append : decode ⟨0b0010_0000, [.bytes [0x01]]⟩ = .instr (.append [0x01]) := by decide
theorem test_decode_try_parse_one : decode ⟨0b0010_0001, []⟩ = .instr .tryParseOne := by decide
theorem test_decode_reset : decode ⟨0b0010_1111, []⟩ = .instr .reset := by decide
/-- The ends of R70's ranges are reserved, whatever stands beside the opcode. -/
theorem test_decode_reserved_ends :
    ∀ op ∈ [0x00, 0x03, 0x0F, 0x12, 0x1F, 0x22, 0x2E, 0x30, (0xFF : Byte)],
      decode ⟨op, []⟩ = .reserved op ∧ ReservedOpcode op := by decide
/-- A real opcode with another command's operands is no command. -/
theorem test_decode_malformed : decode ⟨0x21, [.u8 0]⟩ = .malformed 0x21 := by decide
/-- The table's words decode with operands at zero. -/
theorem test_table_words :
    [0x01, 0x02, 0x10, 0x11, 0x20, 0x21, 0x2F].map (decodeTableWord 8) =
      [some (.crcStep 0 0), some (.crc8 []), some (.encode 0 []), some (.decodeValidated []), some (.append []),
        some .tryParseOne, some .reset] := by decide

/-! ## Configurations and states for the tests -/

/-- A finite FIFO of 64 bytes under the reference table (42_parser.md R141). -/
def fifo64 : Config :=
  { referenceConfig with bufCap := some 64, bufCap_ge := fun n h => by cases h; decide }

/-- The rejected reading of HDR_MIN (92_eei_decisions.md D4). -/
def hdrMin5 : Config :=
  { referenceConfig with hdrMin := 5, hdrMin_ge := by decide }

/-- The table that is the identity: a permutation, so it detects single-bit changes. -/
def identityTable : Config :=
  { referenceConfig with crcTable := id, crcTable_zero := rfl }

/-- A state with a buffer and nothing else. -/
def holding (buf : Bytes) : State :=
  setBuf buf State.reset

/-- The buffer a command leaves. -/
def bufAfter (o : StepOutcome) : Option Bytes :=
  match o with
  | .next t => some t.buf
  | .fault _ => none
  | .refused _ => none

/-- The response a command gives. -/
def responseOf (o : StepOutcome) : Option Response :=
  match o with
  | .next t => t.response
  | .fault _ => none
  | .refused _ => none

/-! ## One command each, against the spec's vectors -/

/-- V16. -/
theorem test_crc_step : crcStep referenceConfig 0xA5 0x05 = 0x69 := by decide
/-- V3, under every table. -/
theorem test_crc_step_equal : responseOf (exec (.crcStep 0x12 0x12) State.reset) = some (.ok (.crc 0x00)) := by
  decide
/-- V15, the catalogued check value. -/
theorem test_crc8_check_value :
    crc8 referenceConfig [0x31, 0x32, 0x33, 0x34, 0x35, 0x36, 0x37, 0x38, 0x39] = 0xF4 := by decide
/-- V13. -/
theorem test_crc8_scenario : crc8 referenceConfig [0xA5, 0x05, 0x01, 0x2A] = 0xB2 := by decide
/-- 42_parser.md R149 and V54 print 0x64 here; the table of R107 gives T[0xB2] = 0x17 (log entry 12). -/
theorem test_crc8_of_r149_example : crc8 referenceConfig [0xA5, 0x05, 0x01, 0x2A, 0x00] = 0x17 := by decide
/-- V24: sync bytes in type and payload are copied. -/
theorem test_encode_sync_bytes :
    responseOf (execWith referenceConfig (.encode 0xA5 [0xA5, 0xA5]) State.reset) =
      some (.ok (.frame [0xA5, 0x06, 0xA5, 0xA5, 0xA5, 0xC9])) := by decide
/-- V28. -/
theorem test_encode_oversize :
    responseOf (exec (.encode 0x00 (List.replicate 61 0)) State.reset) = some (.fault (.encOversize 61)) := by decide
/-- V29. -/
theorem test_decode_validated :
    responseOf (execWith referenceConfig (.decodeValidated [0xA5, 0x05, 0x01, 0x2A, 0xB2]) State.reset) =
      some (.ok (.decoded ⟨0x01, [0x2A]⟩)) := by decide
/-- V32, under every table. -/
theorem test_decode_wrong_length :
    responseOf (exec (.decodeValidated [0xA5, 0x06, 0x01, 0x2A, 0xB2]) State.reset) =
      some (.fault (.decUnvalidated 5)) := by decide
/-- The example of 42_parser.md R140. -/
theorem test_append :
    bufAfter (exec (.append [0x01, 0x2A]) (holding [0xA5, 0x05])) = some [0xA5, 0x05, 0x01, 0x2A] := by decide
/-- 42_parser.md R141: the 65th byte of a 64-byte FIFO. -/
theorem test_append_overflow :
    responseOf (execWith fifo64 (.append [0x00]) (holding (List.replicate 64 0))) =
      some (.fault (.bufOverflow 65)) := by decide
/-- V56: garbage before and bytes behind the frame. -/
theorem test_parse_success :
    parseBuf referenceConfig [0x11, 0xA5, 0x05, 0x01, 0x2A, 0xB2, 0x33] =
      ⟨⟨.success, true, true, some ⟨0x01, [0x2A]⟩⟩, [0x33]⟩ := by decide
/-- V51, under every table: a length byte 0xA5 is rejected and stays as the next candidate. -/
theorem test_parse_bad_length :
    parseBuf hw [0xA5, 0xA5, 0x04, 0x00, 0xDC] = ⟨⟨.badLength, true, false, none⟩, [0xA5, 0x04, 0x00, 0xDC]⟩ := by
  decide
/-- P3, step 8: RESET clears the buffer and not the mark. -/
theorem test_reset_keeps_the_mark :
    (match exec .reset (setFaultMark (holding [0xA5, 0x05])) with
      | .next t => (t.buf, t.faultMark)
      | .fault _ => ([0], false)
      | .refused _ => ([0], false)) = ([], true) := by decide
/-- P3, step 7: a reserved opcode. -/
theorem test_step_reserved_opcode :
    responseOf (step (issueFirst ⟨0x22, []⟩ State.reset)) = some (.fault (.illegalCommand 0x22)) := by decide
/-- V57 and V63: a minimum frame under HDR_MIN = 4 and under the rejected 5. -/
theorem test_parse_minimum_frame :
    (parseBuf referenceConfig [0xA5, 0x04, 0x00, 0xDC]).reply.outcome = .success ∧
      (parseBuf hdrMin5 [0xA5, 0x04, 0x00, 0xDC]).reply.outcome = .syncShort := by decide
/-- V72: a spurious frame swallows the first bytes of A, and B is still delivered. -/
theorem test_drain_swallowing :
    packets (drain referenceConfig (holding
      [0xA5, 0x06, 0x6B, 0xA5, 0x05, 0x01, 0x2A, 0xB2, 0xA5, 0x05, 0x81, 0x2A, 0x04])).replies =
      [⟨0x6B, [0xA5, 0x05]⟩, ⟨0x81, [0x2A]⟩] := by decide

/-! ## Witnesses: for each statement with hypotheses, a state and operands that meet them all -/

/-- A frame that is valid under the hardware's own (open) table. -/
def goodFrame : Bytes :=
  [0xA5, 0x04, 0x00] ++ [crc8 hw [0xA5, 0x04, 0x00]]

theorem goodFrame_crc : crc8 hw goodFrame = 0 := by
  rw [goodFrame, crc8_concat, crcStep_self]

theorem goodFrame_valid : valid hw goodFrame = true := by
  rw [valid, goodFrame_crc]; rfl

/-- A burst of a two-byte sequence is decided by its 16 bits. -/
theorem burst_of_two {order : BitOrder} {p : Nat} {a b c d : Byte}
    (h : ∀ i < 16, bitAt order [a, b] i ≠ bitAt order [c, d] i → p ≤ i ∧ i < p + 8) :
    DifferWithinBurst order p [a, b] [c, d] := by
  intro i hi
  by_cases hlt : i < 16
  · exact h i hlt hi
  · obtain ⟨j, rfl⟩ : ∃ j, i = j + 8 + 8 := ⟨i - 16, by omega⟩
    simp [bitAt_cons_add] at hi

theorem candidate_self (x : Bytes) (h : x[0]? = some SYNC) : CandidateAfter [] x x :=
  ⟨rfl, by simp [SyncFree], h⟩

theorem witness_ReservedOpcodesFault :
    ReservedOpcode 0x22 ∧ (issueFirst ⟨0x22, []⟩ State.reset).pending = ⟨0x22, []⟩ :: [] := by decide
/-- Each range of R70 at both ends is reserved and its neighbours are not. -/
theorem witness_ReservedOpcode_boundaries :
    (∀ op ∈ [0x00, 0x03, 0x0F, 0x12, 0x1F, 0x22, 0x2E, 0x30, (0xFF : Byte)], ReservedOpcode op) ∧
    ∀ op ∈ [0x01, 0x02, 0x10, 0x11, 0x20, 0x21, (0x2F : Byte)], ¬ ReservedOpcode op := by decide
theorem witness_UpperNibbleSelectsTheUnit : decode ⟨0x21, []⟩ = .instr .tryParseOne := by decide
theorem witness_StepRunsTheDecodedCommand :
    (issueFirst ⟨0x20, [.bytes [1]]⟩ State.reset).pending = ⟨0x20, [.bytes [1]]⟩ :: [] ∧
      decode ⟨0x20, [.bytes [1]]⟩ = .instr (.append [1]) := by decide
theorem witness_PlacedTableWordRunsNext : decodeTableWord 8 0x21 = some .tryParseOne := by decide
theorem witness_IdleStepKeepsTheBuffer : State.reset.pending = [] := rfl
theorem witness_MalformedOperandsStop :
    (issueFirst ⟨0x21, [.u8 0]⟩ State.reset).pending = ⟨0x21, [.u8 0]⟩ :: [] ∧ ¬ ReservedOpcode 0x21 ∧
      ∀ i, encode i ≠ ⟨0x21, [.u8 0]⟩ := by
  refine ⟨rfl, by decide, fun i h => ?_⟩
  cases i <;> simp [encode, operandsFor, opcodeFor, opcodeByte] at h
theorem witness_CommandsLeaveTheRestUnchanged :
    exec (.crc8 []) State.reset = .next (respond (.ok (.crc 0)) State.reset) ∧
    exec (.append [1]) State.reset = .next (respond (.ok .empty) (holding [1])) ∧
    exec .tryParseOne State.reset = .next (respond (.ok (.parse ⟨.noSync, false, false, none⟩)) State.reset) ∧
    exec .reset State.reset = .next (respond (.ok .empty) State.reset) ∧
    exec (.encode 0 []) State.reset = .next (respond (.ok (.frame (encodeFrame hw 0 []))) State.reset) ∧
    ([] : Bytes).length ≤ 60 ∧
    exec (.decodeValidated goodFrame) State.reset = .next (respond (.ok (.decoded (packetOf goodFrame))) State.reset) ∧
    valid hw goodFrame = true :=
  ⟨rfl, rfl, rfl, rfl, rfl, by decide, if_pos goodFrame_valid, goodFrame_valid⟩
theorem witness_CommandsReadOnlyTheBuffer :
    (setFaultMark (holding [1])).buf = (holding [1]).buf ∧
    exec .reset (setFaultMark (holding [1])) = .next (respond (.ok .empty) (setFaultMark State.reset)) ∧
    exec .reset (holding [1]) = .next (respond (.ok .empty) State.reset) := ⟨rfl, rfl, rfl⟩
theorem witness_FaultMarkIsSticky :
    stepWith fifo64 (issueFirst ⟨0x20, [.bytes (List.replicate 65 0)]⟩ State.reset) =
      .next (respond (.fault (.bufOverflow 65)) (setFaultMark State.reset)) ∧
    step (setFaultMark State.reset) = .next (setFaultMark State.reset) ∧
    step State.reset = .next State.reset ∧ Successful State.reset := ⟨rfl, rfl, rfl, rfl⟩
theorem witness_ModelFaultTable :
    (issueFirst ⟨0x30, []⟩ State.reset).pending = ⟨0x30, []⟩ :: [] ∧
    stepWith fifo64 (issueFirst ⟨0x30, []⟩ State.reset) =
      .next (respond (.fault (.illegalCommand 0x30)) (setFaultMark State.reset)) ∧
    fifo64.bufCap = some 64 ∧ (holding (List.replicate 64 0)).buf.length + [(0 : Byte)].length > 64 :=
  ⟨rfl, rfl, rfl, by decide⟩
theorem witness_Crc8Result :
    exec (.crc8 []) State.reset = .next (respond (.ok (.crc 0)) State.reset) ∧
    exec (.crc8 []) (holding [1]) = .next (respond (.ok (.crc 0)) (holding [1])) := ⟨rfl, rfl⟩
theorem witness_PermutationTableFixesTheChecksum : Function.Injective identityTable.crcTable := Function.injective_id
theorem witness_GeneratorTablesAreLinearPermutations : (0x07 : Byte).getLsbD 0 = true ∧ (0x8C : Byte).getLsbD 7 = true := by decide
theorem witness_GeneratorTablesDetectSingleBit :
    (0x07 : Byte).getLsbD 0 = true ∧
      (⟨msbTable 0x07, by decide, 4, by decide, none, fun _ h => nomatch h⟩ : Config).crcTable = msbTable 0x07 ∧
    (0x8C : Byte).getLsbD 7 = true ∧
      (⟨lsbTable 0x8C, by decide, 4, by decide, none, fun _ h => nomatch h⟩ : Config).crcTable = lsbTable 0x8C :=
  ⟨by decide, rfl, by decide, rfl⟩
/-- Two sequences that differ in the last 4 bits of one byte and the first 4 bits of the next, so across a byte boundary, in both bit
orders; and a table of each order. -/
theorem witness_GeneratorTablesDetectBursts :
    (0x07 : Byte).getLsbD 0 = true ∧
      (⟨msbTable 0x07, by decide, 4, by decide, none, fun _ h => nomatch h⟩ : Config).crcTable = msbTable 0x07 ∧
    (0xE0 : Byte).getLsbD 7 = true ∧
      (⟨lsbTable 0xE0, by decide, 4, by decide, none, fun _ h => nomatch h⟩ : Config).crcTable = lsbTable 0xE0 ∧
    DifferWithinBurst .msbFirst 4 [0x00, 0x00] [0x0F, 0xF0] ∧ DifferWithinBurst .lsbFirst 4 [0x00, 0x00] [0xF0, 0x0F] ∧
    ([0x00, 0x00] : Bytes) ≠ [0x0F, 0xF0] ∧ ([0x00, 0x00] : Bytes) ≠ [0xF0, 0x0F] :=
  ⟨by decide, rfl, by decide, rfl, burst_of_two (by decide), burst_of_two (by decide), by decide, by decide⟩
/-- Why the bit order matters (log entry 17): bits 3 to 7 of one byte and 0 to 2 of the next are 8 consecutive bits LSB-first, and the
MSB-first reference table misses this change of them (R107's T[0xD8] is 0x06). -/
theorem test_burst_in_the_other_order :
    DifferWithinBurst .lsbFirst 3 [0x00, 0x00] [0xD8, 0x06] ∧
    crc8 referenceConfig [0x00, 0x00] = crc8 referenceConfig [0xD8, 0x06] :=
  ⟨burst_of_two (by decide), by decide⟩
/-- Payloads at the bound and one byte beyond it. -/
theorem witness_EncodeResult :
    (List.replicate 60 (0 : Byte)).length ≤ 60 ∧ (List.replicate 61 (0 : Byte)).length > 60 ∧
    (List.replicate 60 (0 : Byte)).length = 60 := by
  simp only [List.length_replicate]; decide
theorem witness_EncodedFrameShape : (List.replicate 60 (0 : Byte)).length ≤ 60 := by
  simp only [List.length_replicate]; decide
/-- The first payload length whose length byte would not fit. -/
theorem witness_OversizedEncodeFaults :
    (List.replicate 61 (0 : Byte)).length > 60 ∧ (List.replicate 252 (0 : Byte)).length > 60 ∧
    (List.replicate 252 (0 : Byte)).length > 251 := by
  simp only [List.length_replicate]; decide
theorem witness_EncodeDecodeRoundTrip : ([] : Bytes).length ≤ 60 ∧ (List.replicate 60 (0 : Byte)).length ≤ 60 := by
  simp only [List.length_replicate]; decide
theorem witness_ValidFramesAreTheAcceptedFrames :
    valid hw goodFrame = true ∧ SyncFree [0x11] ∧ goodFrame[0]? = some SYNC ∧
    (holding ([0x11] ++ goodFrame ++ [0x33])).buf = [0x11] ++ goodFrame ++ [0x33] ∧
    exec .tryParseOne (holding ([0x11] ++ goodFrame ++ [0x33])) =
      .next (respond (.ok (.parse (messageReply (packetOf goodFrame)))) (holding [0x33])) := by
  have hc : CandidateAfter [0x11] (goodFrame ++ [0x33]) (holding ([0x11] ++ goodFrame ++ [0x33])).buf :=
    ⟨rfl, by simp [SyncFree, SYNC], rfl⟩
  have he : parseBuf hw (holding ([0x11] ++ goodFrame ++ [0x33])).buf =
      ⟨messageReply (packetOf goodFrame), [0x33]⟩ := by
    rw [parseBuf_candidate hw hc]
    have h4 : (byteAt (goodFrame ++ [0x33]) 1).toNat = 4 := rfl
    have hl : (goodFrame ++ [0x33]).length = 5 := rfl
    have hm : hw.hdrMin = 4 := rfl
    have ht : (goodFrame ++ [0x33]).take 4 = goodFrame := rfl
    rcases parseCandidate_cases hw (goodFrame ++ [0x33]) with
      ⟨_, _⟩ | ⟨_, _, _⟩ | ⟨_, _, _, _, _⟩ | ⟨_, _, _, _, h, _⟩ | ⟨_, _, _, _, _, e⟩
    · omega
    · omega
    · omega
    · rw [h4, ht] at h; exact absurd goodFrame_crc h
    · rw [e, h4, ht]; rfl
  refine ⟨goodFrame_valid, by simp [SyncFree, SYNC], rfl, rfl, ?_⟩
  show runTryParseOne hw _ = _
  rw [runTryParseOne_eq, he]; rfl
theorem witness_DecodeValidatedResult :
    valid hw goodFrame = true ∧ ¬ valid hw [] = true ∧ goodFrame.length = 4 := ⟨goodFrame_valid, by decide, rfl⟩
/-- The table-independent cases of UnvalidatedDecodeFaults, one frame each. -/
theorem witness_UnvalidatedDecodeFaults :
    ([0xA5, 0x03, 0x00] : Bytes).length < 4 ∧ (List.replicate 65 (0xA5 : Byte)).length > 64 ∧
    ([0xA4, 0x04, 0x00, 0x00] : Bytes)[0]? ≠ some 0xA5 ∧
    ([0xA5, 0x05, 0x00, 0x00] : Bytes)[1]?.map BitVec.toNat ≠ some ([0xA5, 0x05, 0x00, 0x00] : Bytes).length := by decide
theorem witness_FramerIsPure :
    unitOf (.encode 0 []) = .framer ∧
    exec (.encode 0 []) State.reset = .next (respond (.ok (.frame (encodeFrame hw 0 []))) State.reset) ∧
    exec (.encode 0 []) (holding [1]) = .next (respond (.ok (.frame (encodeFrame hw 0 []))) (holding [1])) := ⟨rfl, rfl, rfl⟩
theorem witness_InterleavedCommandsDoNotInterfere :
    unitOf (.crc8 []) ≠ .parser ∧ exec (.crc8 []) State.reset = .next (respond (.ok (.crc 0)) State.reset) ∧
    exec (.crc8 []) (holding [1]) = .next (respond (.ok (.crc 0)) (holding [1])) ∧
    unitOf .reset = .parser ∧
    exec .reset (runCommands hw [.crc8 []] State.reset).state = .next (respond (.ok .empty) State.reset) ∧
    exec .reset (runCommands hw [] State.reset).state = .next (respond (.ok .empty) State.reset) :=
  ⟨by decide, rfl, rfl, rfl, rfl, rfl⟩
/-- Both sides of the capacity, at the capacity and one byte above. -/
theorem witness_AppendResult :
    fifo64.bufCap = some 64 ∧ (holding (List.replicate 63 0)).buf.length + [(0 : Byte)].length ≤ 64 ∧
    (holding (List.replicate 64 0)).buf.length + [(0 : Byte)].length > 64 := ⟨rfl, by decide, by decide⟩
theorem witness_NoSyncClearsTheBuffer : SyncFree (holding [0x11, 0x22]).buf ∧ (holding []).buf = [] :=
  ⟨by simp [holding, SyncFree, SYNC], rfl⟩
/-- 3 bytes from the candidate on, the longest that waits for its header. -/
theorem witness_ShortHeaderWaits :
    CandidateAfter [0x11] [0xA5, 0x05, 0x01] (holding [0x11, 0xA5, 0x05, 0x01]).buf ∧
      ([0xA5, 0x05, 0x01] : Bytes).length < 4 ∧ (holding [0xA5, 0x04, 0x00, 0xDC]).buf = [0xA5, 0x04, 0x00, 0xDC] :=
  ⟨⟨rfl, by simp [SyncFree, SYNC], rfl⟩, by decide, rfl⟩
/-- Declared lengths 3 and 65, the illegal ones next to the legal range. -/
theorem witness_BadLengthDropsTheSyncByte :
    CandidateAfter [] [0xA5, 0x03, 0x01, 0x02] (holding [0xA5, 0x03, 0x01, 0x02]).buf ∧
      4 ≤ ([0xA5, 0x03, 0x01, 0x02] : Bytes).length ∧ (byteAt [0xA5, 0x03, 0x01, 0x02] 1).toNat < 4 ∧
    CandidateAfter [] [0xA5, 0x41, 0x01, 0x02] (holding [0xA5, 0x41, 0x01, 0x02]).buf ∧
      (byteAt [0xA5, 0x41, 0x01, 0x02] 1).toNat > 64 ∧
    (holding [0xA5, 0xA5, 0x04, 0x00]).buf = 0xA5 :: 0xA5 :: 0x04 :: 0x00 :: [] :=
  ⟨candidate_self _ rfl, by decide, by decide, candidate_self _ rfl, by decide, rfl⟩
/-- V53's candidate: the 63 bytes that declare 64, the largest buffer outcome 4 leaves. -/
theorem witness_ShortFrameWaits :
    CandidateAfter [] (0xA5 :: 0x40 :: List.replicate 61 0) (holding (0xA5 :: 0x40 :: List.replicate 61 0)).buf ∧
      (byteAt (0xA5 :: 0x40 :: List.replicate 61 0) 1).toNat = 64 ∧
      (0xA5 :: 0x40 :: List.replicate 61 (0 : Byte)).length = 63 :=
  ⟨candidate_self _ rfl, rfl, by simp⟩
theorem witness_WholeFrameIsJudgedByItsCrc :
    CandidateAfter [] [0xA5, 0x04, 0x00, 0xDC] (holding [0xA5, 0x04, 0x00, 0xDC]).buf ∧
      (byteAt [0xA5, 0x04, 0x00, 0xDC] 1).toNat = 4 ∧ ([0xA5, 0x04, 0x00, 0xDC] : Bytes).length = 4 ∧
    CandidateAfter [] (0xA5 :: 0x40 :: List.replicate 62 0) (holding (0xA5 :: 0x40 :: List.replicate 62 0)).buf ∧
      (byteAt (0xA5 :: 0x40 :: List.replicate 62 0) 1).toNat = 64 ∧
      (0xA5 :: 0x40 :: List.replicate 62 (0 : Byte)).length = 64 :=
  ⟨candidate_self _ rfl, rfl, rfl, candidate_self _ rfl, rfl, by simp⟩
theorem witness_CrcMismatchDropsTheSyncByte :
    referenceConfig.hdrMin = 4 ∧
    CandidateAfter [] [0xA5, 0x05, 0x01, 0x2A, 0x00] (holding [0xA5, 0x05, 0x01, 0x2A, 0x00]).buf ∧
      (byteAt [0xA5, 0x05, 0x01, 0x2A, 0x00] 1).toNat = 5 ∧
      crc8 referenceConfig (([0xA5, 0x05, 0x01, 0x2A, 0x00] : Bytes).take 5) ≠ 0x00 :=
  ⟨rfl, candidate_self _ rfl, rfl, by decide⟩
theorem witness_SuccessConsumesTheFrame :
    CandidateAfter [] goodFrame (holding goodFrame).buf ∧ (byteAt goodFrame 1).toNat = 4 ∧ goodFrame.length = 4 ∧
      crc8 hw (goodFrame.take (byteAt goodFrame 1).toNat) = 0x00 :=
  ⟨candidate_self _ rfl, rfl, rfl, goodFrame_crc⟩
theorem witness_LeadingGarbageIsInvisible : SyncFree [0xFF, 0xFF] := by simp [SyncFree, SYNC]
theorem witness_ResetResult : exec .reset (holding [0xA5, 0x05]) = .next (respond (.ok .empty) State.reset) := rfl
/-- A TRY_PARSE_ONE without progress. -/
theorem parse_waits :
    exec .tryParseOne (holding [0xA5]) =
      .next (respond (.ok (.parse ⟨.syncShort, false, false, none⟩)) (holding [0xA5])) := rfl
/-- A TRY_PARSE_ONE with progress. -/
theorem parse_rejects :
    exec .tryParseOne (holding [0xA5, 0x00, 0x01, 0x02]) =
      .next (respond (.ok (.parse ⟨.badLength, true, false, none⟩)) (holding [0x00, 0x01, 0x02])) := rfl
theorem witness_SideEffectsAndIdempotency :
    unitOf (.crc8 []) ≠ .parser ∧ exec (.crc8 []) State.reset = .next (respond (.ok (.crc 0)) State.reset) ∧
    exec (.append [1]) State.reset = .next (respond (.ok .empty) (holding [1])) ∧
    (∃ t r, exec .tryParseOne (holding [0xA5]) = .next t ∧ t.response = some (.ok (.parse r))) ∧
    exec .reset State.reset = .next (respond (.ok .empty) State.reset) :=
  ⟨by decide, rfl, rfl, ⟨_, _, parse_waits, rfl⟩, rfl⟩
theorem witness_ParseRemovesOneOfFourAmounts :
    ∃ t r, exec .tryParseOne (holding [0xA5, 0x00, 0x01, 0x02]) = .next t ∧ t.response = some (.ok (.parse r)) :=
  ⟨_, _, parse_rejects, rfl⟩
theorem witness_EmptyPollIsIdempotent :
    ∃ t r, exec .tryParseOne (holding [0xA5]) = .next t ∧ t.response = some (.ok (.parse r)) ∧ r.outcome = .syncShort :=
  ⟨_, _, parse_waits, rfl, rfl⟩
/-- The other two outcomes without progress: an empty buffer, and a header that declares one byte more than there is. -/
theorem witness_EmptyPollIsIdempotent_clauses :
    exec .tryParseOne State.reset = .next (respond (.ok (.parse ⟨.noSync, false, false, none⟩)) State.reset) ∧
    exec .tryParseOne (holding [0xA5, 0x05, 0x01, 0x2A]) =
      .next (respond (.ok (.parse ⟨.lenShort, false, false, none⟩)) (holding [0xA5, 0x05, 0x01, 0x2A])) := ⟨rfl, rfl⟩
theorem witness_DrainTerminates :
    (∃ t r, exec .tryParseOne (holding [0xA5, 0x00, 0x01, 0x02]) = .next t ∧ t.response = some (.ok (.parse r)) ∧
      CandidateAfter [] [0xA5, 0x00, 0x01, 0x02] (holding [0xA5, 0x00, 0x01, 0x02]).buf ∧ r.outcome = .badLength) ∧
    (holding [0xA5]).buf.length + 1 ≤ 2 :=
  ⟨⟨_, _, parse_rejects, rfl, candidate_self _ rfl, rfl⟩, by decide⟩
/-- One byte at a time, with polls and a CRC command between. -/
theorem witness_ChunkingDoesNotMatter :
    hw.bufCap = none ∧ State.reset.buf = [] ∧
    ∀ i ∈ [Instr.append [0xA5], .tryParseOne, .crc8 [0x01], .append [0x04]], keepsStream i = true :=
  ⟨rfl, rfl, by decide⟩
theorem witness_CleanFrameIsDelivered : ([0x2A] : Bytes).length ≤ 60 ∧ State.reset.buf = [] := ⟨by decide, rfl⟩
/-- P2's garbage before two frames, under the reference table: a bad length and a bad CRC. -/
theorem witness_ResynchronisesPastGarbage :
    let garbage : Bytes := [0xFF, 0xA5, 0x02, 0x10, 0xA5, 0x05, 0x00, 0x00, 0x00]
    let frames := encodeFrame referenceConfig 0x01 [0x2A] ++ encodeFrame referenceConfig 0x81 [0x2A]
    referenceConfig.hdrMin = 4 ∧ referenceConfig.bufCap = none ∧ ([0x2A] : Bytes).length ≤ 60 ∧ State.reset.buf = [] ∧
    NoAccidentalFrame referenceConfig garbage frames ∧
    (∀ i ∈ [Instr.append garbage, .tryParseOne, .append frames], keepsStream i = true) ∧
    appendedBytes [Instr.append garbage, .tryParseOne, .append frames] = garbage ++ frames := by
  refine ⟨rfl, rfl, by decide, rfl, ?_, by decide, by simp [appendedBytes]⟩
  intro q hq hs
  simp only [List.length_cons, List.length_nil, Nat.zero_add, Nat.reduceAdd] at hq
  interval_cases q <;> revert hs <;> decide
/-- V69's frame with payload bit 0 flipped, under a table that detects it. -/
theorem witness_CorruptedFrameIsRejected :
    identityTable.hdrMin = 4 ∧ DetectsSingleBit identityTable ∧ ([0x2A] : Bytes).length ≤ 60 ∧ 0 < 8 ∧
    2 ≤ ([0xA5, 0x05, 0x01] : Bytes).length ∧
    encodeFrame identityTable 0x01 [0x2A] = [0xA5, 0x05, 0x01] ++ 0x2A :: [0x8B] ∧
    (holding (([0xA5, 0x05, 0x01] ++ flipBit 0 0x2A :: [0x8B]) ++ [])).buf =
      ([0xA5, 0x05, 0x01] ++ flipBit 0 0x2A :: [0x8B]) ++ [] :=
  ⟨rfl, detectsSingleBit_of_injective Function.injective_id, by decide, by decide, by decide, by decide, rfl⟩
theorem witness_AnyEncodedFrameIsExtracted :
    ([] : Bytes).length ≤ 60 ∧ SyncFree [0x11] ∧
    (holding ([0x11] ++ encodeFrame hw 0x00 [] ++ [0x33])).buf = [0x11] ++ encodeFrame hw 0x00 [] ++ [0x33] :=
  ⟨by decide, by simp [SyncFree, SYNC], rfl⟩
/-- A FIFO of exactly `63 + 1` bytes and chunks of one byte. -/
theorem witness_DrainedBufferIsBounded :
    fifo64.hdrMin = 4 ∧ (∀ n, fifo64.bufCap = some n → 63 + 1 ≤ n) ∧ State.reset.buf = [] ∧
    (∀ c ∈ [[0xA5], [(0x04 : Byte)]], c.length ≤ 1) ∧ ([0x00] : Bytes).length ≤ 1 :=
  ⟨rfl, fun n h => by cases h; decide, rfl, by decide, by decide⟩
theorem witness_BufferStaysWithinCapacity :
    fifo64.bufCap = some 64 ∧ (holding [1]).buf.length ≤ 64 ∧ stepWith fifo64 (holding [1]) = .next (holding [1]) :=
  ⟨rfl, by decide, rfl⟩
/-- A state with a fault on the port and the mark set meets the invariant, and steps. -/
theorem witness_StepKeepsThePortInvariant :
    PortInv (respond (.fault (.encOversize 61)) (setFaultMark State.reset)) ∧
    step (respond (.fault (.encOversize 61)) (setFaultMark State.reset)) = .next (setFaultMark State.reset) :=
  ⟨by simp [PortInv], rfl⟩

end Sys2Proof.Tests
end

section
/-! PROOFS, 00_scope.md: a step runs the command the decoder reads (R10). -/

namespace Sys2Proof.Machine

/-- Issuing, in the case of a command the decoder accepts; stated for every meaning `run`, so that it serves `step` and `stepWith`. -/
theorem issue_of_decode_instr (run : Instr → State → StepOutcome) {s : State} {c : Command} {rest : List Command} {i : Instr}
    (hp : s.pending = c :: rest) (hd : decode c = .instr i) : issue run s = run i (setPending rest s) := by
  simp only [issue, hp, hd]

/-- Settles O5: `step` is `issue` at `exec`, and the port without its first command is `setPending rest`. -/
theorem stepRunsTheDecodedCommand : Obligations.StepRunsTheDecodedCommand := by
  intro s c rest i hp hd
  exact issue_of_decode_instr exec hp hd

end Sys2Proof.Machine
end

section
/-! PROOFS, 10_state.md: what the commands read (R27, R28), what they leave unchanged (R21, R25, R26), and the state at reset (R30). -/

namespace Sys2Proof.Machine

/-- ENCODE of a legal payload completes (41_framer.md R121). -/
theorem execWith_encode_of_le (cfg : Config) (typeId : Byte) {payload : Bytes} (s : State) (h : payload.length ≤ 60) :
    execWith cfg (.encode typeId payload) s = complete (.frame (encodeFrame cfg typeId payload)) s :=
  if_neg (Nat.not_lt.2 h)

/-- ENCODE of an oversized payload faults (41_framer.md R122). -/
theorem execWith_encode_of_gt (cfg : Config) (typeId : Byte) {payload : Bytes} (s : State) (h : 60 < payload.length) :
    execWith cfg (.encode typeId payload) s = raiseFault (.encOversize payload.length) s :=
  if_pos h

/-- DECODE_VALIDATED of a valid frame completes (41_framer.md R125). -/
theorem execWith_decodeValidated_of_valid {cfg : Config} {frame : Bytes} (s : State) (h : valid cfg frame = true) :
    execWith cfg (.decodeValidated frame) s = complete (.decoded (packetOf frame)) s :=
  if_pos h

/-- DECODE_VALIDATED of any other sequence faults (41_framer.md R126). -/
theorem execWith_decodeValidated_of_not_valid {cfg : Config} {frame : Bytes} (s : State) (h : ¬ valid cfg frame = true) :
    execWith cfg (.decodeValidated frame) s = raiseFault (.decUnvalidated frame.length) s :=
  if_neg h

/-- APPEND within the capacity completes (42_parser.md R140). -/
theorem execWith_append_of_fits {cfg : Config} {data : Bytes} {s : State}
    (h : ¬ exceeds cfg.bufCap (s.buf.length + data.length) = true) :
    execWith cfg (.append data) s = complete .empty (setBuf (s.buf ++ data) s) :=
  if_neg h

/-- APPEND beyond the capacity faults (42_parser.md R141). -/
theorem execWith_append_of_exceeds {cfg : Config} {data : Bytes} {s : State}
    (h : exceeds cfg.bufCap (s.buf.length + data.length) = true) :
    execWith cfg (.append data) s = raiseFault (.bufOverflow (s.buf.length + data.length)) s :=
  if_pos h

/-- The hardware's APPEND never faults: its capacity is unbounded (92_eei_decisions.md D8). -/
theorem execWith_append_hw (data : Bytes) (s : State) :
    execWith hw (.append data) s = complete .empty (setBuf (s.buf ++ data) s) :=
  execWith_append_of_fits Bool.false_ne_true

/-- The candidate check removes bytes from the front only. -/
theorem parseCandidate_buf_eq_drop (cfg : Config) (c : Bytes) : ∃ k, (parseCandidate cfg c).buf = c.drop k := by
  rcases parseCandidate_cases cfg c with ⟨_, e⟩ | ⟨_, _, e⟩ | ⟨_, _, _, _, e⟩ | ⟨_, _, _, _, _, e⟩ | ⟨_, _, _, _, _, e⟩ <;>
    rw [e]
  · exact ⟨0, rfl⟩
  · exact ⟨1, rfl⟩
  · exact ⟨0, rfl⟩
  · exact ⟨1, rfl⟩
  · exact ⟨_, rfl⟩

/-- A whole parse clears the buffer or removes bytes from its front (10_state.md R21). -/
theorem parseBuf_buf_eq_nil_or_drop (cfg : Config) (buf : Bytes) :
    (parseBuf cfg buf).buf = [] ∨ ∃ k, (parseBuf cfg buf).buf = buf.drop k := by
  rcases parseBuf_cases cfg buf with ⟨_, e⟩ | ⟨g, c, ⟨rfl, _, _⟩, e⟩
  · exact .inl (by rw [e])
  · obtain ⟨k, hk⟩ := parseCandidate_buf_eq_drop cfg c
    exact .inr ⟨g.length + k, by rw [e, hk, List.drop_length_add_append]⟩

/-- For given contents of `buf`, a command does one and the same thing in every state: it completes with one result and one new buffer,
or takes one fault. It is `execWith_cases` with the choice made before the rest of the state is known. -/
theorem execWith_cases_of_buf (cfg : Config) (i : Instr) (buf : Bytes) :
    (∃ r v, ∀ s : State, s.buf = buf → execWith cfg i s = complete r (setBuf v s)) ∨
    (∃ f, ∀ s : State, s.buf = buf → execWith cfg i s = raiseFault f s) := by
  cases i with
  | crcStep acc b => exact .inl ⟨_, buf, by rintro s rfl; rfl⟩
  | crc8 data => exact .inl ⟨_, buf, by rintro s rfl; rfl⟩
  | encode typeId payload =>
    rcases Nat.lt_or_ge 60 payload.length with h | h
    · exact .inr ⟨_, fun s _ => execWith_encode_of_gt cfg typeId s h⟩
    · exact .inl ⟨_, buf, by rintro s rfl; exact execWith_encode_of_le cfg typeId s h⟩
  | decodeValidated frame =>
    by_cases h : valid cfg frame = true
    · exact .inl ⟨_, buf, by rintro s rfl; exact execWith_decodeValidated_of_valid s h⟩
    · exact .inr ⟨_, fun s _ => execWith_decodeValidated_of_not_valid s h⟩
  | append data =>
    by_cases h : exceeds cfg.bufCap (buf.length + data.length) = true
    · exact .inr ⟨.bufOverflow (buf.length + data.length), by rintro s rfl; exact execWith_append_of_exceeds h⟩
    · exact .inl ⟨_, buf ++ data, by rintro s rfl; exact execWith_append_of_fits h⟩
  | tryParseOne => exact .inl ⟨.parse (parseBuf cfg buf).reply, (parseBuf cfg buf).buf, by rintro s rfl; rfl⟩
  | reset => exact .inl ⟨_, [], fun _ _ => rfl⟩

/-- Settles O13: the two states take the same case of `execWith_cases_of_buf`. -/
theorem commandsReadOnlyTheBuffer : Obligations.CommandsReadOnlyTheBuffer := by
  intro i s s' t t' hb h h'
  rw [exec_eq_execWith] at h h'
  rcases execWith_cases_of_buf hw i s'.buf with ⟨r, v, hc⟩ | ⟨f, hf⟩
  · obtain rfl := (complete_next_iff _ _ _).1 (hc s hb ▸ h)
    obtain rfl := (complete_next_iff _ _ _).1 (hc s' rfl ▸ h')
    exact ⟨rfl, rfl⟩
  · obtain rfl := (raiseFault_next_iff _ _ _).1 (hf s hb ▸ h)
    obtain rfl := (raiseFault_next_iff _ _ _).1 (hf s' rfl ▸ h')
    exact ⟨rfl, hb⟩

/-- Settles O12, command by command: each writes what `complete` or `raiseFault` writes, and the parser's three write `buf` before. -/
theorem commandsLeaveTheRestUnchanged : Obligations.CommandsLeaveTheRestUnchanged := by
  intro i s t h
  rw [exec_eq_execWith] at h
  cases i with
  | crcStep acc b =>
    obtain rfl := (complete_next_iff _ _ _).1 h
    simp [unitOf]
  | crc8 data =>
    obtain rfl := (complete_next_iff _ _ _).1 h
    simp [unitOf]
  | encode typeId payload =>
    rcases Nat.lt_or_ge 60 payload.length with hl | hl
    · obtain rfl := (raiseFault_next_iff _ _ _).1 (execWith_encode_of_gt hw typeId s hl ▸ h)
      simp [unitOf, hl]
    · obtain rfl := (complete_next_iff _ _ _).1 (execWith_encode_of_le hw typeId s hl ▸ h)
      simp [unitOf]
  | decodeValidated frame =>
    by_cases hv : valid hw frame = true
    · obtain rfl := (complete_next_iff _ _ _).1 (execWith_decodeValidated_of_valid s hv ▸ h)
      simp [unitOf]
    · obtain rfl := (raiseFault_next_iff _ _ _).1 (execWith_decodeValidated_of_not_valid s hv ▸ h)
      simp [unitOf, hv]
  | append data =>
    obtain rfl := (complete_next_iff _ _ _).1 (execWith_append_hw data s ▸ h)
    simp [unitOf]
  | tryParseOne =>
    obtain rfl := (complete_next_iff _ _ _).1 h
    simpa [unitOf] using parseBuf_buf_eq_nil_or_drop hw s.buf
  | reset =>
    obtain rfl := (complete_next_iff _ _ _).1 h
    simp [unitOf]

/-- Settles O56: no response stands on the port at reset, so no clause of `PortInv` has a case. -/
theorem resetMeetsThePortInvariant : Obligations.ResetMeetsThePortInvariant :=
  ⟨nofun, nofun, nofun⟩

end Sys2Proof.Machine
end

section
/-! PROOFS, 20_memory.md: what a TRY_PARSE_ONE removes (R46), side effects and idempotency (R47), and non-interference (R50). -/

namespace Sys2Proof.Machine

/-! ### One TRY_PARSE_ONE -/

/-- What a completed TRY_PARSE_ONE answers and leaves, as one parse of `buf`. -/
theorem exec_tryParseOne_next {s t : State} {r : ParseReply} (h : exec .tryParseOne s = .next t)
    (hr : t.response = some (.ok (.parse r))) : parseBuf hw s.buf = ⟨r, t.buf⟩ := by
  obtain rfl := (complete_next_iff _ _ _).1 h
  obtain rfl : (parseBuf hw s.buf).reply = r := by simpa using hr
  rfl

/-- The `progress` indication is that of the outcome (30_encoding.md R73). -/
theorem parseBuf_reply_progress (cfg : Config) (buf : Bytes) :
    (parseBuf cfg buf).reply.progress = outcomeProgress (parseBuf cfg buf).reply.outcome := by
  rcases parseBuf_cases cfg buf with ⟨_, e⟩ | ⟨g, c, _, e⟩
  · rw [e]; rfl
  · rw [e]
    rcases parseCandidate_cases cfg c with ⟨_, e⟩ | ⟨_, _, e⟩ | ⟨_, _, _, _, e⟩ | ⟨_, _, _, _, _, e⟩ | ⟨_, _, _, _, _, e⟩ <;>
      rw [e] <;> rfl

/-- The outcomes without progress are 1, 2 and 4 (30_encoding.md R73). -/
theorem outcomeProgress_eq_false_iff (o : ParseOutcome) :
    outcomeProgress o = false ↔ o = .noSync ∨ o = .syncShort ∨ o = .lenShort := by
  cases o <;> decide

/-- A candidate check without progress leaves the candidate as it was. -/
theorem parseCandidate_buf_of_no_progress {cfg : Config} {c : Bytes}
    (h : (parseCandidate cfg c).reply.progress = false) : (parseCandidate cfg c).buf = c := by
  rcases parseCandidate_cases cfg c with ⟨_, e⟩ | ⟨_, _, e⟩ | ⟨_, _, _, _, e⟩ | ⟨_, _, _, _, _, e⟩ | ⟨_, _, _, _, _, e⟩ <;>
    rw [e] at h ⊢
  -- left are outcomes 3, 5 and 6, whose `progress` is 1
  all_goals cases h

/-- Parsing what a parse left gives the same again exactly when the first made no progress: without progress the buffer is empty or
begins with its candidate, and with progress a repetition would have to leave a buffer shorter than itself. -/
theorem parseBuf_repeats_iff (cfg : Config) (buf : Bytes) :
    parseBuf cfg (parseBuf cfg buf).buf = parseBuf cfg buf ↔ (parseBuf cfg buf).reply.progress = false := by
  constructor
  · intro he
    by_contra hp
    have hshrinks := parseBuf_progress_shrinks cfg (parseBuf cfg buf).buf (by rw [he]; simpa using hp)
    rw [he] at hshrinks
    exact lt_irrefl _ hshrinks
  · intro hp
    rcases parseBuf_cases cfg buf with ⟨_, e⟩ | ⟨g, c, ⟨_, _, hc⟩, e⟩
    · rw [e]
      exact parseBuf_syncFree cfg (buf := []) nofun
    · rw [e] at hp ⊢
      rw [parseCandidate_buf_of_no_progress hp]
      exact parseBuf_candidate (g := []) cfg ⟨rfl, nofun, hc⟩

/-- Writing the response and the buffer changes nothing exactly when both stand there already. -/
theorem eq_respond_setBuf_iff (r : Response) (v : Bytes) (s : State) :
    s = respond r (setBuf v s) ↔ s.response = some r ∧ s.buf = v := by
  constructor
  · intro h
    exact ⟨congrArg State.response h, congrArg State.buf h⟩
  · rintro ⟨hr, rfl⟩
    cases s
    simp_all [respond, setBuf]

/-- A TRY_PARSE_ONE leaves a state as it is exactly when the state already holds its reply and its buffer. -/
theorem exec_tryParseOne_fixed_iff {t : State} {r : ParseReply} (hr : t.response = some (.ok (.parse r))) :
    exec .tryParseOne t = .next t ↔ parseBuf hw t.buf = ⟨r, t.buf⟩ := by
  constructor
  · intro h
    exact exec_tryParseOne_next h hr
  · intro h
    refine (complete_next_iff _ _ _).2 ((eq_respond_setBuf_iff _ _ _).2 ?_)
    rw [h]
    exact ⟨hr, rfl⟩

/-- Settles O44: without a sync byte the parse clears the buffer, else the five cases of the candidate check name what goes. -/
theorem parseRemovesOneOfFourAmounts : Obligations.ParseRemovesOneOfFourAmounts := by
  intro s t r h hr
  have hp := exec_tryParseOne_next h hr
  rcases parseBuf_cases hw s.buf with ⟨hs, e⟩ | ⟨g, c, hc, e⟩
  · obtain ⟨rfl, hb⟩ := Parsed.mk.inj (hp.symm.trans e)
    exact .inl ⟨rfl, hs, hb⟩
  · refine .inr ⟨g, c, hc, ?_⟩
    rw [hp] at e
    rcases parseCandidate_cases hw c with ⟨_, e'⟩ | ⟨_, _, e'⟩ | ⟨_, _, _, _, e'⟩ | ⟨_, _, _, _, _, e'⟩ | ⟨_, _, _, hl, _, e'⟩ <;>
      obtain ⟨rfl, hb⟩ := Parsed.mk.inj (e.trans e')
    · exact .inl ⟨.inl rfl, hb⟩
    · exact .inr (.inl ⟨.inl rfl, hb⟩)
    · exact .inl ⟨.inr rfl, hb⟩
    · exact .inr (.inl ⟨.inr rfl, hb⟩)
    · exact .inr (.inr ⟨rfl, hb, hl⟩)

/-! ### The commands of the CRC generator and the framer -/

/-- A command of the CRC generator or the framer does one and the same thing in every state: it completes with one result, which is no
TRY_PARSE_ONE reply, or takes one fault. -/
theorem execWith_cases_of_not_parser (cfg : Config) {i : Instr} (hi : unitOf i ≠ .parser) :
    (∃ r, (∀ p, r ≠ .parse p) ∧ ∀ s, execWith cfg i s = complete r s) ∨ (∃ f, ∀ s, execWith cfg i s = raiseFault f s) := by
  cases i with
  | crcStep acc b => exact .inl ⟨.crc (crcStep cfg acc b), nofun, fun _ => rfl⟩
  | crc8 data => exact .inl ⟨.crc (crc8 cfg data), nofun, fun _ => rfl⟩
  | encode typeId payload =>
    rcases Nat.lt_or_ge 60 payload.length with h | h
    · exact .inr ⟨_, fun s => execWith_encode_of_gt cfg typeId s h⟩
    · exact .inl ⟨.frame (encodeFrame cfg typeId payload), nofun, fun s => execWith_encode_of_le cfg typeId s h⟩
  | decodeValidated frame =>
    by_cases h : valid cfg frame = true
    · exact .inl ⟨.decoded (packetOf frame), nofun, fun s => execWith_decodeValidated_of_valid s h⟩
    · exact .inr ⟨_, fun s => execWith_decodeValidated_of_not_valid s h⟩
  | append data => exact absurd rfl hi
  | tryParseOne => exact absurd rfl hi
  | reset => exact absurd rfl hi

/-- Such a command leaves `buf`, and run again at once it changes nothing. -/
theorem execWith_repeats_of_not_parser {cfg : Config} {i : Instr} (hi : unitOf i ≠ .parser) {s t : State}
    (h : execWith cfg i s = .next t) : t.buf = s.buf ∧ execWith cfg i t = .next t := by
  rcases execWith_cases_of_not_parser cfg hi with ⟨r, _, hc⟩ | ⟨f, hf⟩
  · obtain rfl := (complete_next_iff _ _ _).1 (hc s ▸ h)
    exact ⟨rfl, hc _⟩
  · obtain rfl := (raiseFault_next_iff _ _ _).1 (hf s ▸ h)
    exact ⟨rfl, hf _⟩

/-- The response of such a command is the same from every state. -/
theorem execWith_response_of_not_parser {cfg : Config} {i : Instr} (hi : unitOf i ≠ .parser) {s s' t t' : State}
    (h : execWith cfg i s = .next t) (h' : execWith cfg i s' = .next t') : t.response = t'.response := by
  rcases execWith_cases_of_not_parser cfg hi with ⟨r, _, hc⟩ | ⟨f, hf⟩
  · obtain rfl := (complete_next_iff _ _ _).1 (hc s ▸ h)
    obtain rfl := (complete_next_iff _ _ _).1 (hc s' ▸ h')
    rfl
  · obtain rfl := (raiseFault_next_iff _ _ _).1 (hf s ▸ h)
    obtain rfl := (raiseFault_next_iff _ _ _).1 (hf s' ▸ h')
    rfl

/-- A command of the CRC generator or the framer answers a next state with the buffer as it was and no TRY_PARSE_ONE reply on the port. -/
theorem execWith_silent_of_not_parser (cfg : Config) {i : Instr} (hi : unitOf i ≠ .parser) (s : State) :
    ∃ t, execWith cfg i s = .next t ∧ t.buf = s.buf ∧ repliesOf t = [] := by
  rcases execWith_cases_of_not_parser cfg hi with ⟨r, hr, hc⟩ | ⟨f, hf⟩
  · refine ⟨respond (.ok r) s, hc s, rfl, ?_⟩
    cases r with
    | parse p => exact absurd rfl (hr p)
    | crc value => rfl
    | frame bytes => rfl
    | decoded packet => rfl
    | empty => rfl
  · exact ⟨_, hf s, rfl, rfl⟩

/-- Settles O43: the pure commands by `execWith_repeats_of_not_parser`, APPEND by cancelling on the left, TRY_PARSE_ONE by
`parseBuf_repeats_iff`, and RESET because a cleared buffer stays cleared. -/
theorem sideEffectsAndIdempotency : Obligations.SideEffectsAndIdempotency := by
  refine ⟨?pure, ?append, ?parse, ?reset⟩
  case pure =>
    intro i s t hi h
    rw [exec_eq_execWith] at h ⊢
    exact execWith_repeats_of_not_parser hi h
  case append =>
    intro data s t h
    obtain rfl := (complete_next_iff _ _ _).1 h
    simp
  case parse =>
    intro s t r h hr
    have hp := exec_tryParseOne_next h hr
    have hrepeats := parseBuf_repeats_iff hw s.buf
    rw [parseBuf_reply_progress, hp] at hrepeats
    rw [exec_tryParseOne_fixed_iff hr, hrepeats, outcomeProgress_eq_false_iff]
  case reset =>
    intro s t h
    obtain rfl := (complete_next_iff _ _ _).1 h
    rfl

/-! ### Sequences of commands -/

/-- From states with equal buffers a command answers equal responses and leaves equal buffers (10_state.md R27, R28), under every
configuration. -/
theorem execWith_congr_buf (cfg : Config) (i : Instr) {s s' : State} (hb : s.buf = s'.buf) :
    ∃ t t', execWith cfg i s = .next t ∧ execWith cfg i s' = .next t' ∧ t.response = t'.response ∧ t.buf = t'.buf := by
  rcases execWith_cases_of_buf cfg i s'.buf with ⟨r, v, hc⟩ | ⟨f, hf⟩
  · exact ⟨_, _, hc s hb, hc s' rfl, rfl, rfl⟩
  · exact ⟨_, _, hf s hb, hf s' rfl, rfl, hb⟩

/-- The replies on the port are read off the response alone. -/
theorem repliesOf_congr {s s' : State} (h : s.response = s'.response) : repliesOf s = repliesOf s' := by
  rw [repliesOf, repliesOf, parseReply, parseReply, h]

/-- Running a sequence, one command at a time. -/
theorem runCommands_cons {cfg : Config} {i : Instr} {s t : State} (rest : List Instr) (h : execWith cfg i s = .next t) :
    runCommands cfg (i :: rest) s =
      ⟨(runCommands cfg rest t).state, repliesOf t ++ (runCommands cfg rest t).replies⟩ := by
  simp only [runCommands, h]

/-- Leaving out the commands of the CRC generator and the framer changes no TRY_PARSE_ONE reply and not the buffer left. The two runs
may start from different states as long as `buf` is the same, since a command left out still writes the port and the mark. -/
theorem runCommands_filter_parser (cfg : Config) (cmds : List Instr) {s s' : State} (hb : s.buf = s'.buf) :
    (runCommands cfg cmds s).replies = (runCommands cfg (cmds.filter (fun i => unitOf i == .parser)) s').replies ∧
    (runCommands cfg cmds s).state.buf =
      (runCommands cfg (cmds.filter (fun i => unitOf i == .parser)) s').state.buf := by
  induction cmds generalizing s s' with
  | nil => exact ⟨rfl, hb⟩
  | cons i rest ih =>
    by_cases hi : unitOf i = .parser
    · obtain ⟨t, t', h, h', hr, hb'⟩ := execWith_congr_buf cfg i hb
      obtain ⟨ihr, ihb⟩ := ih hb'
      rw [List.filter_cons_of_pos (by simp [hi]), runCommands_cons _ h, runCommands_cons _ h', repliesOf_congr hr, ihr]
      exact ⟨rfl, ihb⟩
    · obtain ⟨t, h, hbt, hr⟩ := execWith_silent_of_not_parser cfg hi s
      rw [List.filter_cons_of_neg (by simp [hi]), runCommands_cons _ h, hr]
      exact ih (hbt.trans hb)

/-- Settles O31: the filtered run by `runCommands_filter_parser`; the next parser command reads nothing but the buffer, which the two
runs share (O13); and the other commands do the same from every state. -/
theorem interleavedCommandsDoNotInterfere : Obligations.InterleavedCommandsDoNotInterfere := by
  refine ⟨?filtered, ?next, ?others⟩
  case filtered =>
    intro cmds s
    exact runCommands_filter_parser hw cmds rfl
  case next =>
    intro cmds i s t t' _ h h'
    obtain ⟨_, hb⟩ := runCommands_filter_parser hw cmds (rfl : s.buf = s.buf)
    exact (commandsReadOnlyTheBuffer i _ _ t t' hb h h').1
  case others =>
    intro i s s' t t' hi h h'
    rw [exec_eq_execWith] at h h'
    exact execWith_response_of_not_parser hi h h'

end Sys2Proof.Machine
end

section
/-! PROOFS, 30_encoding.md: decoding and encoding (R68 to R70, R76), what a step answers to each kind of command, the replies of
TRY_PARSE_ONE (R72 to R74), and the invariant of the response port. -/

namespace Sys2Proof

/-! ### The decoder's three answers, each with its condition -/

/-- The whole per-instruction family of Laws/PerInstr.lean. -/
theorem shape (i : Instr) : Laws.Shape.Statement i := by
  cases i with
  | crcStep acc b => exact Laws.Shape.crcStep acc b
  | crc8 data => exact Laws.Shape.crc8 data
  | encode typeId payload => exact Laws.Shape.encode typeId payload
  | decodeValidated frame => exact Laws.Shape.decodeValidated frame
  | append data => exact Laws.Shape.append data
  | tryParseOne => exact Laws.Shape.tryParseOne
  | reset => exact Laws.Shape.reset

/-- Decoding an encoded instruction gives it back. -/
@[simp] theorem decode_encode (i : Instr) : decode (encode i) = .instr i := by
  obtain ⟨hrow, hinstr⟩ := shape i
  simp only [decode, hrow, hinstr]

/-- A command decodes to an instruction exactly when it is that instruction's own (R76). -/
theorem decode_eq_instr_iff (c : Command) (i : Instr) : decode c = .instr i ↔ c = encode i := by
  constructor
  · intro h
    rcases decode_cases c with ⟨_, e⟩ | ⟨_, _, _, e⟩ | ⟨row, j, hrow, hj, e⟩ <;> rw [e] at h <;> cases h
    obtain ⟨rfl, hops⟩ := instrOf_eq_some hj
    cases c
    exact congr (congrArg Command.mk (opcodeByte_of_opcodeOf hrow)) hops
  · rintro rfl
    exact decode_encode i

/-- The opcodes that select no row of the table are the reserved ones (R70). -/
theorem opcodeOf_eq_none_iff (op : Byte) : opcodeOf op = none ↔ ReservedOpcode op := by
  simp only [opcodeOf, List.find?_eq_none, opcodeRows, List.mem_cons, List.not_mem_nil, or_false, forall_eq_or_imp, forall_eq,
    opcodeByte, beq_iff_eq, BitVec.ofNat_eq_ofNat, BitVec.toNat_eq, BitVec.toNat_ofNat]
  omega

/-- A filtered range, counted as a finite set. -/
theorem length_filter_range (m : Nat) (p : Nat → Prop) [DecidablePred p] :
    ((List.range m).filter (fun n => decide (p n))).length = ((Finset.range m).filter p).card := rfl

/-- The opcodes that are not reserved, among all 256: the seven of the table (R69). -/
theorem filter_not_reservedOpcode :
    (Finset.range 256).filter (fun n => ¬ ReservedOpcode (BitVec.ofNat 8 n)) =
      {0x01, 0x02, 0x10, 0x11, 0x20, 0x21, 0x2F} := by
  ext n
  simp only [ReservedOpcode, Finset.mem_filter, Finset.mem_range, BitVec.toNat_ofNat, Finset.mem_insert, Finset.mem_singleton]
  omega

/-- The ranges of R70 hold 249 values: all 256 but the seven of the table. -/
theorem reservedOpcode_count :
    ((List.range 256).filter (fun n => decide (ReservedOpcode (BitVec.ofNat 8 n)))).length = 249 := by
  have hsplit := Finset.card_filter_add_card_filter_not (s := Finset.range 256) (fun n => ReservedOpcode (BitVec.ofNat 8 n))
  rw [filter_not_reservedOpcode, Finset.card_range] at hsplit
  rw [length_filter_range]
  exact Nat.add_right_cancel hsplit

/-- A command decodes as reserved exactly when its opcode is a reserved one, whatever its operands. -/
theorem decode_eq_reserved_iff (c : Command) : decode c = .reserved c.op ↔ ReservedOpcode c.op := by
  rw [← opcodeOf_eq_none_iff]
  rcases decode_cases c with ⟨h, e⟩ | ⟨_, h, _, e⟩ | ⟨_, _, h, _, e⟩ <;> simp [h, e]

/-- A command decodes as malformed exactly when its opcode is a real one and no instruction encodes to it. -/
theorem decode_eq_malformed_iff (c : Command) :
    decode c = .malformed c.op ↔ ¬ ReservedOpcode c.op ∧ ∀ i, encode i ≠ c := by
  rw [← opcodeOf_eq_none_iff]
  rcases decode_cases c with ⟨h, e⟩ | ⟨row, h, _, e⟩ | ⟨row, i, _, _, e⟩
  · simp [h, e]
  · have hno : ∀ i, encode i ≠ c := by
      rintro i rfl
      exact Decoded.noConfusion ((decode_encode i).symm.trans e)
    simp [h, e, hno]
  · have hi := (decode_eq_instr_iff c i).1 e
    simp only [e, reduceCtorEq, false_iff, not_and, not_forall, not_not]
    exact fun _ => ⟨i, hi.symm⟩

/-- The upper nibble of an instruction's opcode is its unit's (R68). -/
theorem encode_op_upper_nibble (i : Instr) : (encode i).op.extractLsb' 4 4 = unitNibble (unitOf i) := by
  cases i <;> simp [encode, opcodeFor, opcodeByte, unitOf, unitNibble]

/-- What the decoder reads from a table word is what it reads from that word's command. -/
theorem decode_of_decodeTableWord {nbits w : Nat} {i : Instr} (h : decodeTableWord nbits w = some i) :
    decode (tableCommand (w % 2 ^ nbits)) = .instr i := by
  unfold decodeTableWord at h
  split at h <;> cases h
  assumption

/-- Settles O2: `decode_encode` one way, the decoder's own parts the other. -/
theorem decodeEncodeAgree : Obligations.DecodeEncodeAgree :=
  decode_eq_instr_iff

/-- Settles O1: each word, with its operand list, is the encoding of its command. -/
theorem knownCommandsDecode : Obligations.KnownCommandsDecode := fun acc b typeId bs =>
  ⟨decode_encode (.crcStep acc b), decode_encode (.crc8 bs), decode_encode (.encode typeId bs),
    decode_encode (.decodeValidated bs), decode_encode (.append bs), decode_encode .tryParseOne, decode_encode .reset⟩

/-- Settles O4: a command that decodes is an encoded instruction. -/
theorem upperNibbleSelectsTheUnit : Obligations.UpperNibbleSelectsTheUnit := by
  intro c i h
  obtain rfl := (decode_eq_instr_iff c i).1 h
  exact encode_op_upper_nibble i

end Sys2Proof

namespace Sys2Proof.Machine

/-! ### What a step answers to each kind of command -/

/-- Issuing, in the case of a reserved opcode (R70). -/
theorem issue_of_decode_reserved (run : Instr → State → StepOutcome) {s : State} {c : Command} {rest : List Command} {op : Byte}
    (hp : s.pending = c :: rest) (hd : decode c = .reserved op) :
    issue run s = .next (respond (.fault (.illegalCommand op)) (setFaultMark (setPending rest s))) := by
  simp only [issue, hp, hd, raiseFault]

/-- Issuing, in the case of a wrong operand list (log entry 4). -/
theorem issue_of_decode_malformed (run : Instr → State → StepOutcome) {s : State} {c : Command} {rest : List Command} {op : Byte}
    (hp : s.pending = c :: rest) (hd : decode c = .malformed op) : issue run s = .refused (.malformedOperands op) := by
  simp only [issue, hp, hd]

/-- Every command answers a next state, under every configuration: it completes or takes a model fault (60_exceptions.md R187). -/
theorem execWith_eq_next (cfg : Config) (i : Instr) (s : State) : ∃ t, execWith cfg i s = .next t := by
  rcases execWith_cases cfg i s with ⟨r, v, e⟩ | ⟨f, e⟩
  · exact ⟨_, e⟩
  · exact ⟨_, e⟩

/-- Settles O3: the count by `reservedOpcode_count`, the decoder by `decode_eq_reserved_iff`, and the step by `issue_of_decode_reserved`. -/
theorem reservedOpcodesFault : Obligations.ReservedOpcodesFault := by
  refine ⟨reservedOpcode_count, fun op operands => decode_eq_reserved_iff ⟨op, operands⟩, ?_⟩
  intro s op operands rest hop hp
  exact issue_of_decode_reserved exec hp ((decode_eq_reserved_iff ⟨op, operands⟩).2 hop)

/-- Settles O9: such a command decodes as malformed. -/
theorem malformedOperandsStop : Obligations.MalformedOperandsStop := by
  intro s op operands rest hp hop hno
  exact issue_of_decode_malformed exec hp ((decode_eq_malformed_iff ⟨op, operands⟩).2 ⟨hop, hno⟩)

/-- Settles O8: idle, ILLEGAL_COMMAND and every command answer a next state; what is left of the decoder's answers is malformed. -/
theorem stepStopsOnlyOnMalformedOperands : Obligations.StepStopsOnlyOnMalformedOperands := by
  intro s
  match hp : s.pending with
  | [] => exact .inl ⟨idle s, by simp only [step, issue, hp]⟩
  | c :: rest =>
    rcases decode_cases c with ⟨_, e⟩ | ⟨_, _, _, e⟩ | ⟨_, i, _, _, e⟩
    · exact .inl ⟨_, issue_of_decode_reserved exec hp e⟩
    · obtain ⟨hop, hno⟩ := (decode_eq_malformed_iff c).1 e
      exact .inr ⟨c.op, c.operands, rest, rfl, hop, hno, issue_of_decode_malformed exec hp e⟩
    · obtain ⟨t, ht⟩ := execWith_eq_next hw i (setPending rest s)
      exact .inl ⟨t, (issue_of_decode_instr exec hp e).trans ((exec_eq_execWith _ _).trans ht)⟩

/-- Settles O6: the placed command is the first on the port, and taking it off gives the state it was placed in. -/
theorem placedTableWordRunsNext : Obligations.PlacedTableWordRunsNext := by
  intro s nbits w i h
  exact issue_of_decode_instr exec (issueFirst_pending _ s) (decode_of_decodeTableWord h)

/-! ### The replies of TRY_PARSE_ONE -/

/-- A frame's packet lacks the frame's four other bytes (41_framer.md R125). -/
theorem packetOf_payload_length (f : Bytes) : (packetOf f).payload.length = f.length - 4 := by
  simp only [packetOf, slice, List.length_take, List.length_drop]
  omega

theorem replyOk_bareReply {o : ParseOutcome} (h : outcomeMessage o = false) : ReplyOk (bareReply o) :=
  ⟨rfl, rfl, by simp [bareReply, h], nofun⟩

theorem replyOk_messageReply {p : Packet} (h : p.payload.length ≤ MAX_PAYLOAD) : ReplyOk (messageReply p) := by
  refine ⟨rfl, rfl, by simp [messageReply, outcomeMessage], ?_⟩
  rintro q ⟨⟩
  exact h

/-- Every reply of the parser has the indications of its outcome and a packet within bounds (R73, R74): a packet comes only from a
candidate whose declared length is at most 64. -/
theorem replyOk_parseBuf (cfg : Config) (buf : Bytes) : ReplyOk (parseBuf cfg buf).reply := by
  rcases parseBuf_cases cfg buf with ⟨_, e⟩ | ⟨g, c, _, e⟩ <;> rw [e]
  · exact replyOk_bareReply rfl
  · rcases parseCandidate_cases cfg c with ⟨_, e⟩ | ⟨_, _, e⟩ | ⟨_, _, _, _, e⟩ | ⟨_, _, _, _, _, e⟩ | ⟨_, _, hle, _, _, e⟩ <;>
      rw [e]
    · exact replyOk_bareReply rfl
    · exact replyOk_bareReply rfl
    · exact replyOk_bareReply rfl
    · exact replyOk_bareReply rfl
    · refine replyOk_messageReply ?_
      rw [packetOf_payload_length, List.length_take, MAX_PAYLOAD]
      omega

theorem outcomeProgress_eq_true_iff (o : ParseOutcome) :
    outcomeProgress o = true ↔ o = .badLength ∨ o = .crcMismatch ∨ o = .success := by
  cases o <;> decide

theorem outcomeMessage_eq_true_iff (o : ParseOutcome) : outcomeMessage o = true ↔ o = .success := by
  cases o <;> decide

/-- "Codes 0 and 7 are never returned" (R72). -/
theorem outcomeCode_ne_zero_and_ne_seven (o : ParseOutcome) : outcomeCode o ≠ 0 ∧ outcomeCode o ≠ 7 := by
  cases o <;> decide

/-- Settles O41: the reply is `parseBuf`'s, and `ReplyOk` holds of it. -/
theorem parseRepliesFollowTheOutcomeTable : Obligations.ParseRepliesFollowTheOutcomeTable := by
  refine ⟨⟨rfl, rfl, rfl, rfl, rfl, rfl⟩, fun s => ⟨_, (parseBuf hw s.buf).reply, rfl, rfl, ?_⟩⟩
  obtain ⟨hprogress, hmessage, hsome, hbound⟩ := replyOk_parseBuf hw s.buf
  obtain ⟨hzero, hseven⟩ := outcomeCode_ne_zero_and_ne_seven (parseBuf hw s.buf).reply.outcome
  refine ⟨hzero, hseven, ?progress, ?message, ?packet, ?nopacket⟩
  case progress => rw [hprogress, outcomeProgress_eq_true_iff]
  case message => rw [hmessage, outcomeMessage_eq_true_iff]
  case packet =>
    intro hm
    obtain ⟨p, hp⟩ := Option.isSome_iff_exists.1 (hsome.1 hm)
    exact ⟨p, hp, hbound p hp⟩
  case nopacket =>
    intro hm
    rw [← Option.not_isSome_iff_eq_none, ← hsome, hm]
    exact Bool.false_ne_true

/-! ### The invariant of the response port -/

/-- A candidate starts with the sync byte, so it is not empty. -/
theorem candidate_head {cand : Bytes} (h : cand[0]? = some SYNC) : byteAt cand 0 = SYNC ∧ 1 ≤ cand.length := by
  cases cand with
  | nil => cases h
  | cons x xs => exact ⟨by simpa [byteAt] using h, by simp⟩

/-- A parse without progress leaves one of the three drained forms (42_parser.md R154): outcome 1 the empty buffer, outcome 2 a short
header, outcome 4 a short frame. -/
theorem drainedForm_parseBuf {cfg : Config} (hmin : cfg.hdrMin = 4) {buf : Bytes}
    (h : (parseBuf cfg buf).reply.progress = false) : DrainedForm (parseBuf cfg buf).buf := by
  rcases parseBuf_cases cfg buf with ⟨_, e⟩ | ⟨g, c, ⟨_, _, hc⟩, e⟩
  · exact .inl (by rw [e])
  · obtain ⟨hsync, hpos⟩ := candidate_head hc
    rw [e] at h ⊢
    rw [parseCandidate_buf_of_no_progress h]
    rcases parseCandidate_cases cfg c with ⟨hl, _⟩ | ⟨_, _, e'⟩ | ⟨hl, h4, h64, hlt, _⟩ | ⟨_, _, _, _, _, e'⟩ | ⟨_, _, _, _, _, e'⟩
    · exact .inr (.inl ⟨hsync, hpos, by omega⟩)
    · rw [e'] at h; cases h
    · exact .inr (.inr ⟨hsync, h4, h64, by omega, hlt⟩)
    · rw [e'] at h; cases h
    · rw [e'] at h; cases h

/-- A legal payload's frame is valid (41_framer.md R123): its CRC cancels itself whatever the table. -/
theorem valid_encodeFrame (cfg : Config) (typeId : Byte) {payload : Bytes} (h : payload.length ≤ 60) :
    valid cfg (encodeFrame cfg typeId payload) = true := by
  have hheader : headerOk (encodeFrame cfg typeId payload) = true := by
    rw [headerOk_iff, encodeFrame_length]
    refine ⟨by omega, by omega, rfl, ?_⟩
    exact congrArg some (lengthByte_toNat h)
  have hcrc : crc8 cfg (encodeFrame cfg typeId payload) = 0 := by
    rw [encodeFrame, crc8_concat, crcStep_self]
  rw [valid, hheader, hcrc]
  rfl

theorem portInv_of_no_response {s : State} (h : s.response = none) : PortInv s := by
  simp [PortInv, h]

/-- A fault response that comes with its mark meets the invariant (60_exceptions.md R184). -/
theorem portInv_respond_fault (f : Fault) (s : State) : PortInv (respond (.fault f) (setFaultMark s)) := by
  simp [PortInv]

/-- A completed command's response meets the invariant when what the invariant asks of a reply and of a frame holds. -/
theorem portInv_respond_ok {r : Result} {s : State}
    (hparse : ∀ p, r = .parse p → ReplyOk p ∧ (p.progress = false → DrainedForm s.buf))
    (hframe : ∀ f, r = .frame f → valid hw f = true) : PortInv (respond (.ok r) s) := by
  simpa [PortInv] using ⟨hparse, hframe⟩

/-- Every command leaves a port that meets the invariant, whatever stood there before: it writes the response anew. -/
theorem portInv_of_exec {i : Instr} {s t : State} (h : exec i s = .next t) : PortInv t := by
  rw [exec_eq_execWith] at h
  cases i with
  | crcStep acc b =>
    obtain rfl := (complete_next_iff _ _ _).1 h
    exact portInv_respond_ok nofun nofun
  | crc8 data =>
    obtain rfl := (complete_next_iff _ _ _).1 h
    exact portInv_respond_ok nofun nofun
  | encode typeId payload =>
    rcases Nat.lt_or_ge 60 payload.length with hl | hl
    · obtain rfl := (raiseFault_next_iff _ _ _).1 (execWith_encode_of_gt hw typeId s hl ▸ h)
      exact portInv_respond_fault _ s
    · obtain rfl := (complete_next_iff _ _ _).1 (execWith_encode_of_le hw typeId s hl ▸ h)
      refine portInv_respond_ok nofun ?_
      rintro _ ⟨⟩
      exact valid_encodeFrame hw typeId hl
  | decodeValidated frame =>
    by_cases hv : valid hw frame = true
    · obtain rfl := (complete_next_iff _ _ _).1 (execWith_decodeValidated_of_valid s hv ▸ h)
      exact portInv_respond_ok nofun nofun
    · obtain rfl := (raiseFault_next_iff _ _ _).1 (execWith_decodeValidated_of_not_valid s hv ▸ h)
      exact portInv_respond_fault _ s
  | append data =>
    obtain rfl := (complete_next_iff _ _ _).1 (execWith_append_hw data s ▸ h)
    exact portInv_respond_ok nofun nofun
  | tryParseOne =>
    obtain rfl := (complete_next_iff _ _ _).1 h
    refine portInv_respond_ok ?_ nofun
    rintro _ ⟨⟩
    exact ⟨replyOk_parseBuf hw s.buf, drainedForm_parseBuf rfl⟩
  | reset =>
    obtain rfl := (complete_next_iff _ _ _).1 h
    exact portInv_respond_ok nofun nofun

/-- Settles O55: each of the three things a step can do writes the port anew, so the invariant of the state before is not used. -/
theorem stepKeepsThePortInvariant : Obligations.StepKeepsThePortInvariant := by
  intro s t _ h
  rcases issue_next_cases h with ⟨_, rfl⟩ | ⟨c, rest, i, _, _, hrun⟩ | ⟨c, rest, op, _, _, rfl⟩
  · exact portInv_of_no_response rfl
  · exact portInv_of_exec hrun
  · exact portInv_respond_fault _ _

end Sys2Proof.Machine
end

section
/-! PROOFS, 40_crc.md: CRC_STEP and CRC8 (R100, R101), the self-verifying property (R104), the two table procedures (R102), the
detection properties of their tables (R106), and the reference table (R107). -/

namespace Sys2Proof.Machine

/-! ### The fold, for every table -/

/-- The fold continues across a concatenation (R101). -/
theorem crc8_append (cfg : Config) (s t : Bytes) : crc8 cfg (s ++ t) = t.foldl (crcStep cfg) (crc8 cfg s) :=
  List.foldl_append

theorem crcStep_zero_left (cfg : Config) (b : Byte) : crcStep cfg 0#8 b = cfg.crcTable b := by
  simp [crcStep]

/-- Zero bytes leave the accumulator at 0, because entry 0 is 0 (R100). -/
theorem crc8_replicate_zero (cfg : Config) (n : Nat) : crc8 cfg (List.replicate n 0) = 0 := by
  induction n with
  | zero => rfl
  | succ n ih => rw [List.replicate_succ', crc8_concat, ih, crcStep_self]

theorem crc8_append_self (cfg : Config) (s : Bytes) : crc8 cfg (s ++ [crc8 cfg s]) = 0 := by
  rw [crc8_concat, crcStep_self]

/-- Every encoded frame, of whatever length, has whole-frame CRC 0 (R104). -/
theorem crc8_encodeFrame (cfg : Config) (typeId : Byte) (payload : Bytes) : crc8 cfg (encodeFrame cfg typeId payload) = 0 :=
  crc8_append_self cfg (frameHead typeId payload)

theorem exec_crcStep (acc b : Byte) (s : State) : exec (.crcStep acc b) s = complete (.crc (crcStep hw acc b)) s := rfl

theorem exec_crc8 (data : Bytes) (s : State) : exec (.crc8 data) s = complete (.crc (crc8 hw data)) s := rfl

/-- Settles O17: `exec_crc8`, with the value of the fold on zeros, and the independence of the state that all non-parser commands have. -/
theorem crc8Result : Obligations.Crc8Result := by
  refine ⟨exec_crc8, exec_crc8 [], fun s n => ?zeros, fun data s s' t t' h h' => ?state, by decide⟩
  case zeros =>
    rw [exec_crc8, crc8_replicate_zero]
    rfl
  case state =>
    rw [exec_eq_execWith] at h h'
    exact execWith_response_of_not_parser (by simp [unitOf]) h h'

/-- Settles O18: the last step meets the accumulator with itself, and a frame is its head with the head's CRC. -/
theorem crcSelfVerifying : Obligations.CrcSelfVerifying := fun cfg s =>
  ⟨crc8_concat cfg s (crc8 cfg s), crc8_append_self cfg s, crc8_encodeFrame cfg⟩

/-- Settles O16: `exec_crcStep` and the laws of the fold. -/
theorem crcStepResult : Obligations.CrcStepResult :=
  ⟨exec_crcStep,
    fun cfg acc b s t => ⟨crcStep_self cfg acc, cfg.crcTable_zero, crcStep_zero_left cfg b, rfl, crc8_append cfg s t⟩,
    rfl, by decide⟩

/-- Under a permutation table a step gives 0 only where accumulator and byte agree: entry 0 is the only entry 0. -/
theorem crcStep_eq_zero_iff {cfg : Config} (h : Function.Injective cfg.crcTable) (acc b : Byte) :
    crcStep cfg acc b = 0 ↔ b = acc := by
  constructor
  · intro e
    have hxor : acc ^^^ b = 0 := h (e.trans cfg.crcTable_zero.symm)
    exact (BitVec.xor_eq_zero_iff.1 hxor).symm
  · rintro rfl
    exact crcStep_self cfg b

/-- Settles O20: the last byte of the sequence is one step from `CRC8(s)`. -/
theorem permutationTableFixesTheChecksum : Obligations.PermutationTableFixesTheChecksum := by
  intro cfg h s b
  rw [crc8_concat]
  exact crcStep_eq_zero_iff h (crc8 cfg s) b

/-! ### The bits of a byte in the order of the division -/

/-- The bit of `c` that comes as number `j` in the given order. -/
def placedBit (order : BitOrder) (c : Byte) (j : Nat) : Bool :=
  c.getLsbD (bitPlace order j)

theorem bitPlace_lt (order : BitOrder) {j : Nat} (h : j < 8) : bitPlace order j < 8 := by
  cases order
  · exact Nat.lt_succ_of_le (Nat.sub_le 7 j)
  · exact h

theorem bitPlace_bitPlace (order : BitOrder) {j : Nat} (h : j < 8) : bitPlace order (bitPlace order j) = j := by
  cases order
  · exact Nat.sub_sub_self (Nat.le_of_lt_succ h)
  · rfl

@[simp] theorem placedBit_zero (order : BitOrder) (j : Nat) : placedBit order 0#8 j = false := by
  simp [placedBit]

@[simp] theorem placedBit_xor (order : BitOrder) (a b : Byte) (j : Nat) :
    placedBit order (a ^^^ b) j = (placedBit order a j ^^ placedBit order b j) := by
  simp [placedBit]

theorem eq_of_placedBit_eq (order : BitOrder) {a b : Byte} (h : ∀ j < 8, placedBit order a j = placedBit order b j) : a = b := by
  refine BitVec.eq_of_getLsbD_eq fun i hi => ?_
  simpa [placedBit, bitPlace_bitPlace order hi] using h (bitPlace order i) (bitPlace_lt order hi)

theorem eq_zero_of_placedBit {order : BitOrder} {c : Byte} (h : ∀ j < 8, placedBit order c j = false) : c = 0 :=
  eq_of_placedBit_eq order fun j hj => (h j hj).trans (placedBit_zero order j).symm

/-! ### One round of the division, in either bit order (R102) -/

/-- One round of the procedure of the given order: the two procedures differ in nothing but the order of the bits. -/
def orderRound (order : BitOrder) (p : Byte) : Byte → Byte :=
  match order with
  | .msbFirst => msbRound p
  | .lsbFirst => lsbRound p

/-- The table of the procedure of the given order. -/
def orderTable (order : BitOrder) (p i : Byte) : Byte :=
  rounds (orderRound order p) 8 i

theorem orderTable_msbFirst : orderTable .msbFirst = msbTable := rfl

theorem orderTable_lsbFirst : orderTable .lsbFirst = lsbTable := rfl

/-- The polynomial as a round adds it. -/
theorem placedBit_ite (order : BitOrder) (b : Bool) (p : Byte) (j : Nat) :
    placedBit order (if b then p else 0) j = (b && placedBit order p j) := by
  cases b <;> simp

/-- A round moves every bit one place to the front, and adds the polynomial where the bit that falls out is set. -/
theorem placedBit_orderRound (order : BitOrder) (p c : Byte) {j : Nat} (h : j < 7) :
    placedBit order (orderRound order p c) j = (placedBit order c (j + 1) ^^ (placedBit order c 0 && placedBit order p j)) := by
  cases order with
  | msbFirst =>
    have hshift : placedBit .msbFirst (c <<< 1) j = placedBit .msbFirst c (j + 1) := by
      have hlt : 7 - j < 8 := by omega
      have hpos : ¬ 7 - j < 1 := by omega
      simp only [placedBit, bitPlace, BitVec.getLsbD_shiftLeft, hlt, hpos, decide_true, decide_false, Bool.not_false,
        Bool.true_and, Nat.sub_sub]
    rw [orderRound, msbRound, placedBit_xor, placedBit_ite, hshift]
    rfl
  | lsbFirst =>
    have hshift : placedBit .lsbFirst (c >>> 1) j = placedBit .lsbFirst c (j + 1) := by
      simp [placedBit, bitPlace, Nat.add_comm]
    rw [orderRound, lsbRound, placedBit_xor, placedBit_ite, hshift]
    rfl

/-- The last place is filled from the polynomial alone. -/
theorem placedBit_orderRound_last (order : BitOrder) (p c : Byte) :
    placedBit order (orderRound order p c) 7 = (placedBit order c 0 && placedBit order p 7) := by
  cases order with
  | msbFirst =>
    rw [orderRound, msbRound, placedBit_xor, placedBit_ite]
    simp [placedBit, bitPlace]
  | lsbFirst =>
    rw [orderRound, lsbRound, placedBit_xor, placedBit_ite]
    simp [placedBit, bitPlace]

/-- A round is linear: so is each bit of it. -/
theorem orderRound_xor (order : BitOrder) (p a b : Byte) :
    orderRound order p (a ^^^ b) = orderRound order p a ^^^ orderRound order p b := by
  refine eq_of_placedBit_eq order fun j hj => ?_
  rcases Nat.lt_or_eq_of_le (Nat.le_of_lt_succ hj) with h7 | rfl
  · simp only [placedBit_xor, placedBit_orderRound order p _ h7, Bool.and_xor_distrib_right,
      Bool.xor_assoc, Bool.xor_left_comm]
  · simp only [placedBit_xor, placedBit_orderRound_last, Bool.and_xor_distrib_right]

/-! ### Several rounds -/

theorem rounds_xor {f : Byte → Byte} (hf : ∀ a b, f (a ^^^ b) = f a ^^^ f b) (k : Nat) (a b : Byte) :
    rounds f k (a ^^^ b) = rounds f k a ^^^ rounds f k b := by
  induction k generalizing a b with
  | zero => rfl
  | succ k ih => simp only [rounds, hf, ih]

theorem rounds_add (f : Byte → Byte) (k m : Nat) (c : Byte) : rounds f (k + m) c = rounds f m (rounds f k c) := by
  induction k generalizing c with
  | zero => rw [Nat.zero_add, rounds]
  | succ k ih => rw [Nat.succ_add, rounds, rounds, ih]

/-- As long as zeros fall out, rounds only move the bits to the front. -/
theorem placedBit_rounds_of_leading_zeros {order : BitOrder} {p c : Byte} {k j : Nat} (hc : ∀ i < k, placedBit order c i = false)
    (hj : j + k < 8) : placedBit order (rounds (orderRound order p) k c) j = placedBit order c (j + k) := by
  induction k generalizing c with
  | zero => rfl
  | succ k ih =>
    have hround : ∀ i < 7, placedBit order (orderRound order p c) i = placedBit order c (i + 1) := by
      intro i hi
      rw [placedBit_orderRound order p c hi, hc 0 k.succ_pos, Bool.false_and, Bool.xor_false]
    have hzeros : ∀ i < k, placedBit order (orderRound order p c) i = false := by
      intro i hi
      rw [hround i (by omega)]
      exact hc (i + 1) (by omega)
    rw [rounds, ih hzeros (by omega)]
    exact hround (j + k) (by omega)

/-- With the constant bit 1, rounds that leave zeros in the last places had only zeros to let out: where a set bit falls out, the
constant bit enters at the end. -/
theorem leading_zeros_of_rounds_trailing_zeros {order : BitOrder} {p c : Byte} (hp : placedBit order p 7 = true) {k : Nat} (hk : k ≤ 8)
    (hc : ∀ j < 8, 8 ≤ j + k → placedBit order (rounds (orderRound order p) k c) j = false) :
    ∀ i < k, placedBit order c i = false := by
  induction k generalizing c with
  | zero => nofun
  | succ k ih =>
    have hrest : ∀ i < k, placedBit order (orderRound order p c) i = false :=
      ih (by omega) fun j hj hjk => hc j hj (by omega)
    have hlast : placedBit order (orderRound order p c) 7 = false := by
      have hmoved := placedBit_rounds_of_leading_zeros (p := p) (j := 7 - k) hrest (by omega)
      rw [Nat.sub_add_cancel (by omega)] at hmoved
      exact hmoved.symm.trans (hc (7 - k) (by omega) (by omega))
    have hfirst : placedBit order c 0 = false := by
      simpa [placedBit_orderRound_last, hp] using hlast
    intro i hi
    cases i with
    | zero => exact hfirst
    | succ i =>
      have := hrest i (by omega)
      simpa [placedBit_orderRound order p c (show i < 7 by omega), hfirst] using this

/-! ### The tables of the two procedures (R106) -/

theorem orderTable_xor (order : BitOrder) (p a b : Byte) :
    orderTable order p (a ^^^ b) = orderTable order p a ^^^ orderTable order p b :=
  rounds_xor (orderRound_xor order p) 8 a b

theorem orderTable_zero (order : BitOrder) (p : Byte) : orderTable order p 0 = 0 := by
  simpa using orderTable_xor order p 0 0

/-- R106 (c) for the table: an entry's change by `d₁`, in the first `q` places, for an index's change by `d₀`, in the last `8 - q`, is
no change at all. -/
theorem eq_zero_of_orderTable_burst {order : BitOrder} {p d₀ d₁ : Byte} (hp : placedBit order p 7 = true) {q : Nat} (hq : q ≤ 8)
    (h₀ : ∀ j < q, placedBit order d₀ j = false) (h₁ : ∀ j < 8, q ≤ j → placedBit order d₁ j = false)
    (h : orderTable order p d₀ = d₁) : d₀ = 0 := by
  have hsplit : rounds (orderRound order p) (8 - q) (rounds (orderRound order p) q d₀) = d₁ := by
    rw [← rounds_add, Nat.add_sub_cancel' hq]
    exact h
  have hmoved : ∀ i < 8 - q, placedBit order (rounds (orderRound order p) q d₀) i = false := by
    refine leading_zeros_of_rounds_trailing_zeros hp (Nat.sub_le 8 q) fun j hj hjq => ?_
    rw [hsplit]
    exact h₁ j hj (by omega)
  refine eq_zero_of_placedBit (order := order) fun j hj => ?_
  rcases Nat.lt_or_ge j q with hjq | hjq
  · exact h₀ j hjq
  · have hback := placedBit_rounds_of_leading_zeros (p := p) (j := j - q) h₀ (by omega)
    rw [Nat.sub_add_cancel hjq] at hback
    exact hback.symm.trans (hmoved (j - q) (by omega))

/-- R106 (a), first half: by linearity, two indices with one entry differ by an index with entry 0; that is the burst of `q = 0`. -/
theorem orderTable_injective {order : BitOrder} {p : Byte} (hp : placedBit order p 7 = true) :
    Function.Injective (orderTable order p) := by
  intro a b e
  have hzero : orderTable order p (a ^^^ b) = 0 := by
    simp [orderTable_xor, e]
  exact BitVec.xor_eq_zero_iff.1 (eq_zero_of_orderTable_burst hp (Nat.zero_le 8) nofun (fun j _ _ => placedBit_zero order j) hzero)

/-- Settles O21: both tables are an `orderTable`, whose rounds are linear and, with the constant bit 1, lose nothing. -/
theorem generatorTablesAreLinearPermutations : Obligations.GeneratorTablesAreLinearPermutations := by
  intro p
  rw [← orderTable_msbFirst, ← orderTable_lsbFirst]
  exact ⟨⟨orderTable_zero _ p, orderTable_xor _ p, orderTable_injective (order := .msbFirst)⟩,
    ⟨orderTable_zero _ p, orderTable_xor _ p, orderTable_injective (order := .lsbFirst)⟩⟩

/-- Settles O22: such a table is a permutation, and a permutation table detects single-bit changes. -/
theorem generatorTablesDetectSingleBit : Obligations.GeneratorTablesDetectSingleBit := by
  intro cfg p
  rw [← orderTable_msbFirst, ← orderTable_lsbFirst]
  rintro (⟨hp, htable⟩ | ⟨hp, htable⟩)
  · exact detectsSingleBit_of_injective (htable ▸ orderTable_injective (order := .msbFirst) hp)
  · exact detectsSingleBit_of_injective (htable ▸ orderTable_injective (order := .lsbFirst) hp)

/-! ### Bursts (R106 (c)) -/

theorem bitAt_cons_eq_placedBit (order : BitOrder) (x : Byte) (s : Bytes) {j : Nat} (h : j < 8) :
    bitAt order (x :: s) j = placedBit order x j :=
  bitAt_cons_lt order x s j h

theorem head_eq_of_bitAt_eq {order : BitOrder} {x y : Byte} {s t : Bytes}
    (h : ∀ j < 8, bitAt order (x :: s) j = bitAt order (y :: t) j) : x = y := by
  refine eq_of_placedBit_eq order fun j hj => ?_
  rw [← bitAt_cons_eq_placedBit order x s hj, ← bitAt_cons_eq_placedBit order y t hj]
  exact h j hj

theorem eq_of_bitAt_eq {order : BitOrder} {s t : Bytes} (hlen : s.length = t.length)
    (h : ∀ i, bitAt order s i = bitAt order t i) : s = t := by
  induction s generalizing t with
  | nil => exact (List.length_eq_zero_iff.1 hlen.symm).symm
  | cons x s ih =>
    obtain ⟨y, t, rfl⟩ := List.exists_cons_of_length_eq_add_one hlen.symm
    have htail : s = t := ih (Nat.succ.inj hlen) fun i => by simpa only [bitAt_cons_add] using h (i + 8)
    rw [head_eq_of_bitAt_eq fun j _ => h j, htail]

/-- Outside the burst the bits agree. -/
theorem bitAt_eq_of_burst {order : BitOrder} {q : Nat} {s t : Bytes} (h : DifferWithinBurst order q s t) {i : Nat}
    (hi : i < q ∨ q + 8 ≤ i) : bitAt order s i = bitAt order t i := by
  by_contra hne
  have := h i hne
  omega

/-- Superposition: under a linear table the difference of two steps is the step of the differences. -/
theorem crcStep_xor_crcStep {cfg : Config} (hlin : ∀ a b, cfg.crcTable (a ^^^ b) = cfg.crcTable a ^^^ cfg.crcTable b)
    (a b x y : Byte) : crcStep cfg a x ^^^ crcStep cfg b y = crcStep cfg (a ^^^ b) (x ^^^ y) := by
  have hswap : (a ^^^ x) ^^^ (b ^^^ y) = (a ^^^ b) ^^^ (x ^^^ y) := by ac_rfl
  rw [crcStep, crcStep, crcStep, ← hlin, hswap]

theorem crcStep_left_cancel {cfg : Config} (h : Function.Injective cfg.crcTable) {acc x y : Byte}
    (e : crcStep cfg acc x = crcStep cfg acc y) : x = y :=
  (BitVec.xor_right_inj acc).1 (h e)

/-- Two table steps over a burst that begins in the first of the two bytes give different accumulators, unless the bytes are the same. -/
theorem eq_of_crcStep_crcStep_eq {order : BitOrder} {p : Byte} (hp : placedBit order p 7 = true) {cfg : Config}
    (htable : cfg.crcTable = orderTable order p) {q : Nat} (hq : q < 8) {x y x' y' : Byte} {s t : Bytes}
    (hburst : DifferWithinBurst order q (x :: x' :: s) (y :: y' :: t)) {acc : Byte}
    (h : crcStep cfg (crcStep cfg acc x) x' = crcStep cfg (crcStep cfg acc y) y') : x = y := by
  have hlin : ∀ a b, cfg.crcTable (a ^^^ b) = cfg.crcTable a ^^^ cfg.crcTable b := htable ▸ orderTable_xor order p
  have hinj : Function.Injective cfg.crcTable := htable ▸ orderTable_injective hp
  have hfirst : ∀ j < q, placedBit order (x ^^^ y) j = false := by
    intro j hj
    have hbit := bitAt_eq_of_burst hburst (.inl hj)
    rw [bitAt_cons_eq_placedBit order x _ (by omega), bitAt_cons_eq_placedBit order y _ (by omega)] at hbit
    simp [hbit]
  have hsecond : ∀ j < 8, q ≤ j → placedBit order (x' ^^^ y') j = false := by
    intro j hj hqj
    have hbit := bitAt_eq_of_burst hburst (i := j + 8) (.inr (by omega))
    rw [bitAt_cons_add, bitAt_cons_add, bitAt_cons_eq_placedBit order x' s hj, bitAt_cons_eq_placedBit order y' t hj] at hbit
    simp [hbit]
  have hzero : crcStep cfg (crcStep cfg (acc ^^^ acc) (x ^^^ y)) (x' ^^^ y') = 0#8 := by
    rw [← crcStep_xor_crcStep hlin, ← crcStep_xor_crcStep hlin, h, BitVec.xor_self]
  have hentry : orderTable order p (x ^^^ y) = x' ^^^ y' := by
    rw [(crcStep_eq_zero_iff hinj _ _).1 hzero, BitVec.xor_self, crcStep_zero_left, htable]
  exact BitVec.xor_eq_zero_iff.1 (eq_zero_of_orderTable_burst hp hq.le hfirst hsecond hentry)

/-- From one accumulator on, the fold sees a burst: bytes before it are the same; where it begins it lies in one byte, whose entry the
permutation keeps apart, or in two (`eq_of_crcStep_crcStep_eq`); and the bytes behind it keep different accumulators different. -/
theorem eq_of_foldl_crcStep_eq {order : BitOrder} {p : Byte} (hp : placedBit order p 7 = true) {cfg : Config}
    (htable : cfg.crcTable = orderTable order p) {s t : Bytes} (hlen : s.length = t.length) {q : Nat}
    (hburst : DifferWithinBurst order q s t) {acc : Byte} (h : s.foldl (crcStep cfg) acc = t.foldl (crcStep cfg) acc) : s = t := by
  have hinj : Function.Injective cfg.crcTable := htable ▸ orderTable_injective hp
  induction s generalizing t q acc with
  | nil => exact (List.length_eq_zero_iff.1 hlen.symm).symm
  | cons x s ih =>
    obtain ⟨y, t, rfl⟩ := List.exists_cons_of_length_eq_add_one hlen.symm
    have hlen' : s.length = t.length := Nat.succ.inj hlen
    rcases Nat.lt_or_ge q 8 with hq | hq
    · cases s with
      | nil =>
        obtain rfl := List.length_eq_zero_iff.1 hlen'.symm
        rw [crcStep_left_cancel hinj h]
      | cons x' s =>
        obtain ⟨y', t, rfl⟩ := List.exists_cons_of_length_eq_add_one hlen'.symm
        obtain rfl : s = t := eq_of_bitAt_eq (order := order) (Nat.succ.inj hlen') fun i => by
          have := bitAt_eq_of_burst hburst (i := i + 8 + 8) (.inr (by omega))
          simpa only [bitAt_cons_add] using this
        have hsteps := foldl_crcStep_injective hinj s h
        obtain rfl := eq_of_crcStep_crcStep_eq hp htable hq hburst hsteps
        rw [crcStep_left_cancel hinj hsteps]
    · obtain ⟨q, rfl⟩ := Nat.exists_eq_add_of_le' hq
      obtain rfl : x = y := head_eq_of_bitAt_eq fun j hj => bitAt_eq_of_burst hburst (.inl (by omega))
      rw [ih hlen' (differWithinBurst_tail hburst) h]

theorem detectsBurst_of_orderTable {order : BitOrder} {p : Byte} (hp : placedBit order p 7 = true) {cfg : Config}
    (htable : cfg.crcTable = orderTable order p) : DetectsBurst order cfg :=
  fun _ _ _ hlen hne hburst h => hne (eq_of_foldl_crcStep_eq hp htable hlen hburst h)

/-- Settles O58: the fold sees the burst, in the order of the table's own division. -/
theorem generatorTablesDetectBursts : Obligations.GeneratorTablesDetectBursts := by
  intro cfg p
  rw [← orderTable_msbFirst, ← orderTable_lsbFirst]
  exact ⟨fun hp htable => detectsBurst_of_orderTable (order := .msbFirst) hp htable,
    fun hp htable => detectsBurst_of_orderTable (order := .lsbFirst) hp htable⟩

/-! ### The reference table (R107) -/

/-- The printed listing against the procedure: 256 entries, each computed. -/
theorem referenceTable_eq_msbTable : ∀ i : Byte, referenceTable i = msbTable 0x07 i := by
  decide

/-- Settles O19: the listing by `referenceTable_eq_msbTable`, the two values by computation. -/
theorem referenceTableIsGenerated : Obligations.ReferenceTableIsGenerated := by
  refine ⟨referenceTable_eq_msbTable, ?check, ?reflected⟩
  case check => decide
  case reflected => decide

end Sys2Proof.Machine
end

section
/-! PROOFS, 41_framer.md: ENCODE and DECODE_VALIDATED (R120 to R123, R125 to R127), and `valid` against the parser (R124). -/

namespace Sys2Proof.Machine

/-! ### Frames -/

/-- `valid` as the conjunction of R124. -/
theorem valid_iff (cfg : Config) (f : Bytes) :
    valid cfg f = true ↔
      4 ≤ f.length ∧ f.length ≤ 64 ∧ f[0]? = some SYNC ∧ f[1]?.map BitVec.toNat = some f.length ∧ crc8 cfg f = 0x00 := by
  simp only [valid, Bool.and_eq_true, headerOk_iff, beq_iff_eq, and_assoc]

/-- A frame's packet is what it was encoded from, whatever the payload's length: the three bytes before the payload and the checksum
behind it go. -/
theorem packetOf_encodeFrame (cfg : Config) (typeId : Byte) (payload : Bytes) :
    packetOf (encodeFrame cfg typeId payload) = ⟨typeId, payload⟩ := by
  simp [packetOf, slice, byteAt, encodeFrame, frameHead]

/-! ### ENCODE and DECODE_VALIDATED -/

/-- Settles O23: `execWith_encode_of_le` and `execWith_encode_of_gt` at `hw`; the frame of R121 is `encodeFrame`'s, written out. -/
theorem encodeResult : Obligations.EncodeResult := by
  refine ⟨?legal, ?oversized, ?empty, ?longest, by decide⟩
  case legal =>
    intro typeId payload s h
    exact execWith_encode_of_le hw typeId s h
  case oversized =>
    intro typeId payload s h
    exact execWith_encode_of_gt hw typeId s h
  case empty =>
    intro typeId s
    exact execWith_encode_of_le hw typeId s (Nat.zero_le 60)
  case longest =>
    intro typeId payload h
    have hbyte : lengthByte payload = 0x40 := by
      rw [lengthByte, h]
      rfl
    exact ⟨by rw [encodeFrame_length, h], congrArg some hbyte⟩

/-- Settles O24: the frame is `encodeFrame`'s, which is valid and gives its packet back. -/
theorem encodedFrameShape : Obligations.EncodedFrameShape := by
  intro typeId payload s h
  obtain ⟨hmin, hmax, hsync, hlen, hcrc⟩ := (valid_iff hw _).1 (valid_encodeFrame hw typeId h)
  have hpayload := congrArg Packet.payload (packetOf_encodeFrame hw typeId payload)
  exact ⟨encodeFrame hw typeId payload, execWith_encode_of_le hw typeId s h, encodeFrame_length hw typeId payload,
    hmin, hmax, hsync, hlen, rfl, hpayload, hcrc⟩

/-- Settles O25: `execWith_encode_of_gt`; above 251 bytes the sum is no `u8` value. -/
theorem oversizedEncodeFaults : Obligations.OversizedEncodeFaults := by
  intro typeId payload s h
  refine ⟨execWith_encode_of_gt hw typeId s h, fun hlen => ?_⟩
  have hbyte : (lengthByte payload).toNat < 256 := (lengthByte payload).isLt
  omega

/-- Settles O27: the two cases of DECODE_VALIDATED at `hw`; the payload is 4 bytes shorter than the frame. -/
theorem decodeValidatedResult : Obligations.DecodeValidatedResult := by
  refine ⟨?valid, ?other, ?minimum, by decide, by decide⟩
  case valid =>
    intro f s h
    exact execWith_decodeValidated_of_valid s h
  case other =>
    intro f s h
    exact execWith_decodeValidated_of_not_valid s h
  case minimum =>
    intro f h
    exact List.length_eq_zero_iff.1 (by rw [packetOf_payload_length, h])

/-- Settles O28: each of the cases contradicts its own clause of `valid`. -/
theorem unvalidatedDecodeFaults : Obligations.UnvalidatedDecodeFaults := by
  intro f s h
  refine execWith_decodeValidated_of_not_valid s fun hv => ?_
  obtain ⟨hmin, hmax, hsync, hlen, hcrc⟩ := (valid_iff hw f).1 hv
  rcases h with h | h | h | h | h
  · omega
  · omega
  · exact h hsync
  · exact h hlen
  · exact h hcrc

/-- Settles O29: an encoded frame is valid, and its packet is the one encoded. -/
theorem encodeDecodeRoundTrip : Obligations.EncodeDecodeRoundTrip := by
  intro typeId payload s h
  have hv := valid_encodeFrame hw typeId h
  refine ⟨hv, execWith_encode_of_le hw typeId s h, ?_⟩
  rw [← packetOf_encodeFrame hw typeId payload]
  exact execWith_decodeValidated_of_valid s hv

/-- Settles O30: the framer's commands are no parser commands, so they leave `buf` and answer the same from every state. -/
theorem framerIsPure : Obligations.FramerIsPure := by
  intro i hi s s' t t' h h'
  have hparser : unitOf i ≠ .parser := by simp [hi]
  rw [exec_eq_execWith] at h h'
  obtain ⟨hbuf, _⟩ := execWith_repeats_of_not_parser hparser h
  exact ⟨hbuf, execWith_response_of_not_parser hparser h h'⟩

/-! ### Valid frames and the parser (R124) -/

/-- The candidate check reads the length that a valid frame at its front declares, which is the frame's own. -/
theorem byteAt_one_of_valid {cfg : Config} {f : Bytes} (h : valid cfg f = true) (rest : Bytes) :
    (byteAt (f ++ rest) 1).toNat = f.length := by
  obtain ⟨hmin, _, _, hlen, _⟩ := (valid_iff cfg f).1 h
  have hone : 1 < f.length := by omega
  rw [getElem?_eq_byteAt hone] at hlen
  rw [byteAt_append hone]
  exact Option.some.inj hlen

/-- A valid frame that is no shorter than `HDR_MIN` is accepted with outcome 6, whatever stands behind it: every other case of the
candidate check contradicts its validity. -/
theorem parseCandidate_of_valid {cfg : Config} {f : Bytes} (h : valid cfg f = true) (hhdr : cfg.hdrMin ≤ f.length) (rest : Bytes) :
    parseCandidate cfg (f ++ rest) = ⟨messageReply (packetOf f), rest⟩ := by
  obtain ⟨hmin, hmax, _, _, hcrc⟩ := (valid_iff cfg f).1 h
  have hlen : (f ++ rest).length = f.length + rest.length := List.length_append
  have hcases := parseCandidate_cases cfg (f ++ rest)
  rw [byteAt_one_of_valid h, List.take_left, List.drop_left] at hcases
  rcases hcases with ⟨_, _⟩ | ⟨_, _, _⟩ | ⟨_, _, _, _, _⟩ | ⟨_, _, _, _, hne, _⟩ | ⟨_, _, _, _, _, e⟩
  · omega
  · omega
  · omega
  · exact absurd hcrc hne
  · exact e

/-- Outcome 6 says of the candidate: it declares a legal length that it has, its first bytes of that number have CRC 0, and they go. -/
theorem parseCandidate_success {cfg : Config} {c : Bytes} (h : (parseCandidate cfg c).reply.outcome = .success) :
    4 ≤ (byteAt c 1).toNat ∧ (byteAt c 1).toNat ≤ 64 ∧ (byteAt c 1).toNat ≤ c.length ∧
      crc8 cfg (c.take (byteAt c 1).toNat) = 0 ∧ (parseCandidate cfg c).buf = c.drop (byteAt c 1).toNat := by
  rcases parseCandidate_cases cfg c with ⟨_, e⟩ | ⟨_, _, e⟩ | ⟨_, _, _, _, e⟩ | ⟨_, _, _, _, _, e⟩ | ⟨_, hmin, hmax, hlen, hcrc, e⟩ <;>
    rw [e] at h ⊢
  case inr.inr.inr.inr => exact ⟨hmin, hmax, hlen, hcrc, rfl⟩
  -- the other outcomes are not 6
  all_goals cases h

/-- What outcome 6 removed from the front is a valid frame: as many bytes as it declares. -/
theorem valid_of_parseCandidate_success {cfg : Config} {f rest : Bytes} (hsync : f[0]? = some SYNC)
    (h : (parseCandidate cfg (f ++ rest)).reply.outcome = .success) (hbuf : (parseCandidate cfg (f ++ rest)).buf = rest) :
    valid cfg f = true := by
  obtain ⟨hmin, hmax, hle, hcrc, hdrop⟩ := parseCandidate_success h
  have hlen : (byteAt (f ++ rest) 1).toNat = f.length := by
    have hrest := congrArg List.length (hbuf.symm.trans hdrop)
    rw [List.length_drop] at hrest
    rw [List.length_append] at hle hrest
    omega
  rw [hlen] at hmin hmax hcrc
  rw [List.take_left] at hcrc
  have hone : 1 < f.length := by omega
  refine (valid_iff cfg f).2 ⟨hmin, hmax, hsync, ?_, hcrc⟩
  rw [getElem?_eq_byteAt hone, ← byteAt_append hone]
  exact congrArg some hlen

/-- A frame with the sync byte at its front, behind garbage without one, is the candidate. -/
theorem candidateAfter_append {g f : Bytes} (hg : SyncFree g) (hf : f[0]? = some SYNC) (rest : Bytes) :
    CandidateAfter g (f ++ rest) (g ++ f ++ rest) := by
  refine ⟨List.append_assoc g f rest, hg, ?_⟩
  rw [List.getElem?_append_left (candidate_head hf).2]
  exact hf

/-- Settles O26: in both directions the frame is the candidate; `parseCandidate_of_valid` accepts it, and
`valid_of_parseCandidate_success` says that nothing else is accepted. -/
theorem validFramesAreTheAcceptedFrames : Obligations.ValidFramesAreTheAcceptedFrames := by
  refine ⟨valid_iff hw, ?accepted, ?valid⟩
  case accepted =>
    intro f g rest s hv hg hs
    obtain ⟨hmin, _, hsync, _, _⟩ := (valid_iff hw f).1 hv
    have hp : parseBuf hw s.buf = ⟨messageReply (packetOf f), rest⟩ := by
      rw [hs, parseBuf_candidate hw (candidateAfter_append hg hsync rest)]
      exact parseCandidate_of_valid hv hmin rest
    refine (runTryParseOne_eq hw s).trans ?_
    rw [hp]
    rfl
  case valid =>
    intro f g s t r hg hsync hs h hr hsuccess
    have hp := exec_tryParseOne_next h hr
    rw [hs, parseBuf_candidate hw (candidateAfter_append hg hsync t.buf)] at hp
    exact valid_of_parseCandidate_success hsync (by rw [hp]; exact hsuccess) (by rw [hp])

end Sys2Proof.Machine
end

section
/-! PROOFS, 42_parser.md: APPEND and RESET (R140, R141, R151), and the outcomes of one TRY_PARSE_ONE (R143 to R150, R152). -/

namespace Sys2Proof.Machine

/-! ### APPEND, RESET, and the capacity of the buffer (R140, R141, R151) -/

/-- The parser's three commands (30_encoding.md R69). -/
theorem unitOf_eq_parser_iff (i : Instr) : unitOf i = .parser ↔ (∃ data, i = .append data) ∨ i = .tryParseOne ∨ i = .reset := by
  cases i <;> simp [unitOf]

/-- The capacity check refuses nothing that is within every finite capacity. -/
theorem not_exceeds_of_le {cap : Option Nat} {m : Nat} (h : ∀ n, cap = some n → m ≤ n) : ¬ exceeds cap m = true := by
  cases cap with
  | none => exact Bool.false_ne_true
  | some n => simpa [exceeds] using h n rfl

/-- A parse never makes the buffer longer (10_state.md R21). -/
theorem parseBuf_buf_length_le (cfg : Config) (buf : Bytes) : (parseBuf cfg buf).buf.length ≤ buf.length := by
  rcases parseBuf_buf_eq_nil_or_drop cfg buf with e | ⟨k, e⟩ <;> rw [e]
  · exact Nat.zero_le _
  · exact (List.drop_sublist k buf).length_le

/-- Every command keeps a finite buffer within its capacity: only APPEND makes it longer, and one that would exceed the capacity faults. -/
theorem execWith_buf_length_le {cfg : Config} {n : Nat} (hcap : cfg.bufCap = some n) {i : Instr} {s t : State}
    (hs : s.buf.length ≤ n) (h : execWith cfg i s = .next t) : t.buf.length ≤ n := by
  by_cases hi : unitOf i = .parser
  · rcases (unitOf_eq_parser_iff i).1 hi with ⟨data, rfl⟩ | rfl | rfl
    · by_cases hx : exceeds cfg.bufCap (s.buf.length + data.length) = true
      · obtain rfl := (raiseFault_next_iff _ _ _).1 (execWith_append_of_exceeds hx ▸ h)
        exact hs
      · obtain rfl := (complete_next_iff _ _ _).1 (execWith_append_of_fits hx ▸ h)
        simpa [hcap, exceeds] using hx
    · obtain rfl := (complete_next_iff _ _ _).1 h
      exact (parseBuf_buf_length_le cfg s.buf).trans hs
    · obtain rfl := (complete_next_iff _ _ _).1 h
      exact Nat.zero_le n
  · rwa [(execWith_repeats_of_not_parser hi h).1]

/-- Settles O54: an idle step and ILLEGAL_COMMAND leave the buffer, and every command keeps the bound. -/
theorem bufferStaysWithinCapacity : Obligations.BufferStaysWithinCapacity := by
  intro cfg n s t hcap hs h
  rcases issue_next_cases h with ⟨_, rfl⟩ | ⟨c, rest, i, _, _, hrun⟩ | ⟨c, rest, op, _, _, rfl⟩
  · exact hs
  · exact execWith_buf_length_le hcap (s := setPending rest s) hs hrun
  · exact hs

/-- Settles O32: the two cases of APPEND; the hardware's capacity is unbounded. -/
theorem appendResult : Obligations.AppendResult := by
  refine ⟨execWith_append_hw, ?empty, ?finite, ?vector⟩
  case empty =>
    intro s
    refine (execWith_append_hw [] s).trans ?_
    rw [List.append_nil]
    rfl
  case finite =>
    intro cfg n data s hcap
    refine ⟨fun h => ?_, fun h => ?_⟩
    · exact execWith_append_of_exceeds (by simpa [hcap, exceeds] using h)
    · exact execWith_append_of_fits (by simpa [hcap, exceeds] using h)
  case vector =>
    intro s hs
    refine (execWith_append_hw [0x01, 0x2A] s).trans ?_
    rw [hs]
    rfl

/-- Settles O42: RESET completes on the cleared buffer, and clearing it again changes nothing. -/
theorem resetResult : Obligations.ResetResult := by
  refine ⟨fun s => rfl, ?twice, fun s _ => ⟨_, rfl, rfl⟩⟩
  intro s t h
  obtain rfl := (complete_next_iff _ _ _).1 h
  rfl

/-! ### The outcomes of the candidate check, one lemma each (R146 to R150) -/

section Candidate

variable {cfg : Config} {c : Bytes}

/-- Outcome 2 (R146). -/
theorem parseCandidate_of_short (hhdr : c.length < cfg.hdrMin) : parseCandidate cfg c = ⟨bareReply .syncShort, c⟩ :=
  if_pos hhdr

/-- Outcome 3 (R147). -/
theorem parseCandidate_of_badLength (hhdr : cfg.hdrMin ≤ c.length) (hbad : (byteAt c 1).toNat < 4 ∨ (byteAt c 1).toNat > 64) :
    parseCandidate cfg c = ⟨bareReply .badLength, c.drop 1⟩ :=
  (if_neg (Nat.not_lt.2 hhdr)).trans (if_pos hbad)

/-- With a whole header and a legal length, the number of bytes and the CRC decide (R148 to R150). -/
theorem parseCandidate_of_legal (hhdr : cfg.hdrMin ≤ c.length) (h4 : 4 ≤ (byteAt c 1).toNat) (h64 : (byteAt c 1).toNat ≤ 64) :
    parseCandidate cfg c =
      if c.length < (byteAt c 1).toNat then ⟨bareReply .lenShort, c⟩
      else if crc8 cfg (c.take (byteAt c 1).toNat) ≠ 0x00 then ⟨bareReply .crcMismatch, c.drop 1⟩
      else ⟨messageReply (packetOf (c.take (byteAt c 1).toNat)), c.drop (byteAt c 1).toNat⟩ :=
  (if_neg (Nat.not_lt.2 hhdr)).trans (if_neg (not_or.2 ⟨Nat.not_lt.2 h4, Nat.not_lt.2 h64⟩))

/-- Outcome 4 (R148). -/
theorem parseCandidate_of_lenShort (hhdr : cfg.hdrMin ≤ c.length) (h4 : 4 ≤ (byteAt c 1).toNat) (h64 : (byteAt c 1).toNat ≤ 64)
    (hlen : c.length < (byteAt c 1).toNat) : parseCandidate cfg c = ⟨bareReply .lenShort, c⟩ :=
  (parseCandidate_of_legal hhdr h4 h64).trans (if_pos hlen)

/-- Outcome 5 (R149). -/
theorem parseCandidate_of_crc_ne (hhdr : cfg.hdrMin ≤ c.length) (h4 : 4 ≤ (byteAt c 1).toNat) (h64 : (byteAt c 1).toNat ≤ 64)
    (hlen : (byteAt c 1).toNat ≤ c.length) (hcrc : crc8 cfg (c.take (byteAt c 1).toNat) ≠ 0x00) :
    parseCandidate cfg c = ⟨bareReply .crcMismatch, c.drop 1⟩ :=
  (parseCandidate_of_legal hhdr h4 h64).trans ((if_neg (Nat.not_lt.2 hlen)).trans (if_pos hcrc))

/-- Outcome 6 (R150). -/
theorem parseCandidate_of_crc_eq (hhdr : cfg.hdrMin ≤ c.length) (h4 : 4 ≤ (byteAt c 1).toNat) (h64 : (byteAt c 1).toNat ≤ 64)
    (hlen : (byteAt c 1).toNat ≤ c.length) (hcrc : crc8 cfg (c.take (byteAt c 1).toNat) = 0x00) :
    parseCandidate cfg c = ⟨messageReply (packetOf (c.take (byteAt c 1).toNat)), c.drop (byteAt c 1).toNat⟩ :=
  (parseCandidate_of_legal hhdr h4 h64).trans ((if_neg (Nat.not_lt.2 hlen)).trans (if_neg (not_not.2 hcrc)))

/-- The candidate check answers outcome 2 for a short header only. -/
theorem length_lt_of_syncShort (h : (parseCandidate cfg c).reply.outcome = .syncShort) : c.length < cfg.hdrMin := by
  rcases parseCandidate_cases cfg c with ⟨hl, _⟩ | ⟨_, _, e⟩ | ⟨_, _, _, _, e⟩ | ⟨_, _, _, _, _, e⟩ | ⟨_, _, _, _, _, e⟩
  case inl => exact hl
  -- the other outcomes are not 2
  all_goals rw [e] at h; cases h

end Candidate

/-! ### One TRY_PARSE_ONE, from the parse to the state (R142 to R150) -/

/-- A buffer that starts with the sync byte is its own candidate. -/
theorem candidateAfter_nil {cand : Bytes} (h : cand[0]? = some SYNC) : CandidateAfter [] cand cand :=
  ⟨rfl, nofun, h⟩

/-- TRY_PARSE_ONE writes what the parse of `buf` answers and leaves, and nothing else. -/
theorem execWith_tryParseOne_of_parseBuf {cfg : Config} {s : State} {r : ParseReply} {v : Bytes} (h : parseBuf cfg s.buf = ⟨r, v⟩) :
    execWith cfg .tryParseOne s = .next { s with buf := v, response := some (.ok (.parse r)) } := by
  refine (runTryParseOne_eq cfg s).trans ?_
  rw [h]
  rfl

/-- TRY_PARSE_ONE on a buffer with a candidate is the candidate check. -/
theorem execWith_tryParseOne_of_candidate {cfg : Config} {s : State} {g c v : Bytes} {r : ParseReply}
    (hc : CandidateAfter g c s.buf) (h : parseCandidate cfg c = ⟨r, v⟩) :
    execWith cfg .tryParseOne s = .next { s with buf := v, response := some (.ok (.parse r)) } :=
  execWith_tryParseOne_of_parseBuf ((parseBuf_candidate cfg hc).trans h)

/-- Settles O33: `parseBuf_syncFree`, of which the empty buffer and the example are cases. -/
theorem noSyncClearsTheBuffer : Obligations.NoSyncClearsTheBuffer := by
  refine ⟨?any, ?empty, ?vector⟩
  case any =>
    intro s hs
    exact execWith_tryParseOne_of_parseBuf (parseBuf_syncFree hw hs)
  case empty =>
    intro s hs
    exact execWith_tryParseOne_of_parseBuf (v := s.buf) (by rw [hs]; rfl)
  case vector =>
    intro s hs
    exact execWith_tryParseOne_of_parseBuf (by rw [hs]; rfl)

/-- Settles O34: outcome 2 is `parseCandidate_of_short`, and `length_lt_of_syncShort` says that four bytes are not answered with it. -/
theorem shortHeaderWaits : Obligations.ShortHeaderWaits := by
  refine ⟨?any, ?short, ?minimum, ?vector⟩
  case any =>
    intro s g c hc hl
    exact execWith_tryParseOne_of_candidate hc (parseCandidate_of_short hl)
  case short =>
    intro s x y hs
    refine execWith_tryParseOne_of_parseBuf (v := s.buf) ?_
    rcases hs with hs | hs | hs <;> rw [hs] <;> rfl
  case minimum =>
    intro s t c hs
    refine ⟨_, _, rfl, rfl, fun h => ?_⟩
    rw [hs, parseBuf_candidate hw (candidateAfter_nil rfl)] at h
    exact lt_irrefl 4 (length_lt_of_syncShort h)
  case vector =>
    intro s hs
    exact execWith_tryParseOne_of_parseBuf (by rw [hs]; rfl)

/-- Settles O35: `parseCandidate_of_badLength`; 0xA5 is 165. -/
theorem badLengthDropsTheSyncByte : Obligations.BadLengthDropsTheSyncByte := by
  refine ⟨?any, ?sync, ?vector⟩
  case any =>
    intro s g c hc hl hbad
    exact execWith_tryParseOne_of_candidate hc (parseCandidate_of_badLength hl hbad)
  case sync =>
    intro s x y rest hs
    have hc : CandidateAfter [] (0xA5 :: 0xA5 :: x :: y :: rest) s.buf := by
      rw [hs]
      exact candidateAfter_nil rfl
    have hlength : 4 ≤ (0xA5 :: 0xA5 :: x :: y :: rest).length := Nat.le_add_left 4 rest.length
    exact execWith_tryParseOne_of_candidate hc (parseCandidate_of_badLength hlength (.inr (by decide : 165 > 64)))
  case vector =>
    intro s hs
    exact execWith_tryParseOne_of_parseBuf (by rw [hs]; rfl)

/-- Settles O36: `parseCandidate_of_lenShort`. -/
theorem shortFrameWaits : Obligations.ShortFrameWaits := by
  refine ⟨?any, ?vector⟩
  case any =>
    intro s g c hc hl h4 h64 hlt
    exact ⟨execWith_tryParseOne_of_candidate hc (parseCandidate_of_lenShort hl h4 h64 hlt), by omega⟩
  case vector =>
    intro s hs
    exact execWith_tryParseOne_of_parseBuf (v := s.buf) (by rw [hs]; rfl)

/-- Outcome 5, under every configuration with HDR_MIN = 4 (R149). -/
theorem execWith_tryParseOne_of_crc_ne {cfg : Config} (hmin : cfg.hdrMin = 4) {s : State} {g c : Bytes}
    (hc : CandidateAfter g c s.buf) (h4 : 4 ≤ (byteAt c 1).toNat) (h64 : (byteAt c 1).toNat ≤ 64)
    (hlen : (byteAt c 1).toNat ≤ c.length) (hcrc : crc8 cfg (c.take (byteAt c 1).toNat) ≠ 0x00) :
    execWith cfg .tryParseOne s =
      .next { s with buf := c.drop 1, response := some (.ok (.parse ⟨.crcMismatch, true, false, none⟩)) } :=
  execWith_tryParseOne_of_candidate hc (parseCandidate_of_crc_ne (hmin.trans_le (h4.trans hlen)) h4 h64 hlen hcrc)

/-- The packet of the first bytes of a candidate, as many as it declares. -/
theorem packetOf_take {c : Bytes} {n : Nat} (h : n ≤ c.length) :
    packetOf (c.take n) = ⟨byteAt (c.take n) 2, slice (c.take n) 3 (n - 1)⟩ := by
  rw [packetOf, List.length_take_of_le h]

/-- Outcome 6 on the hardware (R150). -/
theorem exec_tryParseOne_of_crc_eq {s : State} {g c : Bytes} (hc : CandidateAfter g c s.buf) (h4 : 4 ≤ (byteAt c 1).toNat)
    (h64 : (byteAt c 1).toNat ≤ 64) (hlen : (byteAt c 1).toNat ≤ c.length) (hcrc : crc8 hw (c.take (byteAt c 1).toNat) = 0x00) :
    exec .tryParseOne s =
      .next { s with
        buf := c.drop (byteAt c 1).toNat
        response := some (.ok (.parse (messageReply (packetOf (c.take (byteAt c 1).toNat))))) } :=
  execWith_tryParseOne_of_candidate hc (parseCandidate_of_crc_eq (h4.trans hlen) h4 h64 hlen hcrc)

/-- Settles O37: outcome 5 or outcome 6, as the CRC says. -/
theorem wholeFrameIsJudgedByItsCrc : Obligations.WholeFrameIsJudgedByItsCrc := by
  intro s g c hc h4 h64 hlen f
  by_cases hcrc : crc8 hw f = 0x00
  · rw [if_neg (not_not.2 hcrc), exec_tryParseOne_of_crc_eq hc h4 h64 hlen hcrc, packetOf_take hlen]
    rfl
  · rw [if_pos hcrc]
    exact execWith_tryParseOne_of_crc_ne rfl hc h4 h64 hlen hcrc

/-- Settles O38: outcome 5, and the example under the printed table. -/
theorem crcMismatchDropsTheSyncByte : Obligations.CrcMismatchDropsTheSyncByte := by
  refine ⟨?any, by decide, ?vector⟩
  case any =>
    intro cfg s g c hmin hc h4 h64 hlen hcrc
    exact execWith_tryParseOne_of_crc_ne hmin hc h4 h64 hlen hcrc
  case vector =>
    intro s hs
    exact execWith_tryParseOne_of_parseBuf (by rw [hs]; decide)

/-- What outcome 6 removes is a valid frame (41_framer.md R124). -/
theorem valid_take_of_crc_eq {cfg : Config} {cand : Bytes} (hsync : cand[0]? = some SYNC) (h4 : 4 ≤ (byteAt cand 1).toNat)
    (h64 : (byteAt cand 1).toNat ≤ 64) (hlen : (byteAt cand 1).toNat ≤ cand.length)
    (hcrc : crc8 cfg (cand.take (byteAt cand 1).toNat) = 0x00) :
    valid cfg (cand.take (byteAt cand 1).toNat) = true := by
  rw [valid_iff, List.length_take_of_le hlen, List.getElem?_take_of_lt (by omega), List.getElem?_take_of_lt (by omega),
    getElem?_eq_byteAt (by omega : 1 < cand.length)]
  exact ⟨h4, h64, hsync, rfl, hcrc⟩

/-- Settles O39: outcome 6, whose packet is that of DECODE_VALIDATED because what it removes is valid. -/
theorem successConsumesTheFrame : Obligations.SuccessConsumesTheFrame := by
  refine ⟨?any, ?vector⟩
  case any =>
    intro s g c hc h4 h64 hlen hcrc
    have hvalid : valid hw (c.take (byteAt c 1).toNat) = true := valid_take_of_crc_eq hc.2.2 h4 h64 hlen hcrc
    have hpacket := packetOf_take hlen
    have hpayload := congrArg (fun p => p.payload.length) hpacket
    refine ⟨?parse, hvalid, ?decode, ?length⟩
    case parse =>
      rw [exec_tryParseOne_of_crc_eq hc h4 h64 hlen hcrc, hpacket]
      rfl
    case decode =>
      refine (execWith_decodeValidated_of_valid s hvalid).trans ?_
      rw [hpacket]
      rfl
    case length =>
      rw [packetOf_payload_length, List.length_take_of_le hlen] at hpayload
      exact hpayload.symm
  case vector =>
    intro s hs
    exact execWith_tryParseOne_of_parseBuf (by rw [hs]; decide)

/-- Settles O40: garbage before a buffer without a candidate is more of the same, and before one with a candidate it is more garbage. -/
theorem leadingGarbageIsInvisible : Obligations.LeadingGarbageIsInvisible := by
  intro cfg g buf hg
  rcases syncFree_or_candidate buf with hs | ⟨g', c, hc⟩
  · rw [parseBuf_syncFree cfg hs, parseBuf_syncFree cfg (List.forall_mem_append.2 ⟨hg, hs⟩)]
  · obtain ⟨rfl, hg', hsync⟩ := id hc
    rw [parseBuf_candidate cfg hc]
    exact parseBuf_candidate cfg ⟨(List.append_assoc g g' c).symm, List.forall_mem_append.2 ⟨hg, hg'⟩, hsync⟩

/-- A parse without progress removes only bytes that are no sync byte (R145, R152). -/
theorem parseBuf_removes_syncFree {cfg : Config} {buf : Bytes} (h : (parseBuf cfg buf).reply.progress = false) :
    ∃ removed, buf = removed ++ (parseBuf cfg buf).buf ∧ SyncFree removed := by
  rcases parseBuf_cases cfg buf with ⟨hs, e⟩ | ⟨g, c, ⟨hb, hg, _⟩, e⟩
  · exact ⟨buf, by rw [e, List.append_nil], hs⟩
  · rw [e] at h ⊢
    exact ⟨g, by rw [parseCandidate_buf_of_no_progress h, hb], hg⟩

/-- Settles O45: without progress the parse repeats itself (`parseBuf_repeats_iff`), and what it removed holds no sync byte. -/
theorem emptyPollIsIdempotent : Obligations.EmptyPollIsIdempotent := by
  intro s t r h hr ho
  have hp := exec_tryParseOne_next h hr
  have hprogress : (parseBuf hw s.buf).reply.progress = false := by
    rw [parseBuf_reply_progress, hp]
    exact (outcomeProgress_eq_false_iff r.outcome).2 ho
  have hrepeats := (parseBuf_repeats_iff hw s.buf).2 hprogress
  have hremoved := parseBuf_removes_syncFree hprogress
  rw [hp] at hrepeats hremoved
  exact ⟨(exec_tryParseOne_fixed_iff hr).2 hrepeats, hremoved⟩

end Sys2Proof.Machine
end

section
/-! PROOFS, 42_parser.md: the drain (R153, R154, R164), chunking independence (R155), and encoded frames in a stream (R156 to R158, R160,
R167). -/

namespace Sys2Proof.Machine

/-! ### The drain loop, one call at a time -/

/-- The state a TRY_PARSE_ONE leaves. -/
def afterParse (cfg : Config) (s : State) : State :=
  respond (.ok (.parse (parseBuf cfg s.buf).reply)) (setBuf (parseBuf cfg s.buf).buf s)

@[simp] theorem afterParse_buf (cfg : Config) (s : State) : (afterParse cfg s).buf = (parseBuf cfg s.buf).buf := rfl
@[simp] theorem afterParse_faultMark (cfg : Config) (s : State) : (afterParse cfg s).faultMark = s.faultMark := rfl
@[simp] theorem repliesOf_afterParse (cfg : Config) (s : State) : repliesOf (afterParse cfg s) = [(parseBuf cfg s.buf).reply] := rfl

theorem execWith_tryParseOne (cfg : Config) (s : State) : execWith cfg .tryParseOne s = .next (afterParse cfg s) := rfl

theorem drainLoop_of_progress {cfg : Config} {s : State} (k : Nat) (h : (parseBuf cfg s.buf).reply.progress = true) :
    drainLoop cfg (k + 1) s =
      ⟨(drainLoop cfg k (afterParse cfg s)).state, (parseBuf cfg s.buf).reply :: (drainLoop cfg k (afterParse cfg s)).replies⟩ :=
  (drainLoop_succ cfg k s).trans (if_pos h)

theorem drainLoop_of_no_progress {cfg : Config} {s : State} (k : Nat) (h : (parseBuf cfg s.buf).reply.progress = false) :
    drainLoop cfg (k + 1) s = ⟨afterParse cfg s, [(parseBuf cfg s.buf).reply]⟩ :=
  (drainLoop_succ cfg k s).trans (if_neg (Bool.eq_false_iff.1 h))

/-- Beyond `len(buf)` calls the bound of the loop changes nothing, because every call that goes on shortens the buffer (R153). -/
theorem drainLoop_eq_of_fuel {cfg : Config} {a b : Nat} {s : State} (ha : s.buf.length < a) (hb : s.buf.length < b) :
    drainLoop cfg a s = drainLoop cfg b s := by
  induction a generalizing b s with
  | zero => omega
  | succ a ih =>
    obtain ⟨b, rfl⟩ : ∃ b', b = b' + 1 := ⟨b - 1, by omega⟩
    cases hp : (parseBuf cfg s.buf).reply.progress with
    | false => rw [drainLoop_of_no_progress a hp, drainLoop_of_no_progress b hp]
    | true =>
      have hshrinks : (afterParse cfg s).buf.length < s.buf.length := parseBuf_progress_shrinks cfg s.buf hp
      rw [drainLoop_of_progress a hp, drainLoop_of_progress b hp, ih (b := b) (by omega) (by omega)]

/-- A drain that makes progress goes on as the drain of what the call left. -/
theorem drain_of_progress {cfg : Config} {s : State} (h : (parseBuf cfg s.buf).reply.progress = true) :
    drain cfg s = ⟨(drain cfg (afterParse cfg s)).state, (parseBuf cfg s.buf).reply :: (drain cfg (afterParse cfg s)).replies⟩ := by
  have hshrinks : (afterParse cfg s).buf.length < s.buf.length := parseBuf_progress_shrinks cfg s.buf h
  rw [drain, drain, drainLoop_of_progress _ h, drainLoop_eq_of_fuel hshrinks (Nat.lt_succ_self _)]

/-- A call without progress ends the drain. -/
theorem drain_of_no_progress {cfg : Config} {s : State} (h : (parseBuf cfg s.buf).reply.progress = false) :
    drain cfg s = ⟨afterParse cfg s, [(parseBuf cfg s.buf).reply]⟩ :=
  drainLoop_of_no_progress _ h

/-- Induction along a drain: what holds where it stops, and holds before a call with progress when it holds after it, holds everywhere. -/
theorem drain_induction {cfg : Config} {motive : State → Prop}
    (stop : ∀ s, (parseBuf cfg s.buf).reply.progress = false → motive s)
    (go : ∀ s, (parseBuf cfg s.buf).reply.progress = true → motive (afterParse cfg s) → motive s) (s : State) : motive s := by
  cases hp : (parseBuf cfg s.buf).reply.progress with
  | false => exact stop s hp
  | true =>
    have hshrinks : (afterParse cfg s).buf.length < s.buf.length := parseBuf_progress_shrinks cfg s.buf hp
    exact go s hp (drain_induction stop go (afterParse cfg s))
termination_by s.buf.length

/-! ### How a drain ends (R153, R154) -/

/-- A drain is at most `len(buf)` replies with progress, and then the one call without progress that leaves its last state (R153). -/
theorem drain_ends (cfg : Config) (s : State) :
    ∃ init v, drain cfg s = ⟨afterParse cfg v, init ++ [(parseBuf cfg v.buf).reply]⟩ ∧ (∀ r ∈ init, r.progress = true) ∧
      (parseBuf cfg v.buf).reply.progress = false ∧ init.length ≤ s.buf.length := by
  induction s using drain_induction (cfg := cfg) with
  | stop s hp => exact ⟨[], s, drain_of_no_progress hp, nofun, hp, Nat.zero_le _⟩
  | go s hp ih =>
    obtain ⟨init, v, e, hinit, hv, hlen⟩ := ih
    have hshrinks : (afterParse cfg s).buf.length < s.buf.length := parseBuf_progress_shrinks cfg s.buf hp
    refine ⟨(parseBuf cfg s.buf).reply :: init, v, ?_, List.forall_mem_cons.2 ⟨hp, hinit⟩, hv, ?_⟩
    · rw [drain_of_progress hp, e]
      rfl
    · rw [List.length_cons]
      omega

/-- Outcomes 3 and 5 drop the candidate sync byte (R147, R149). -/
theorem parseCandidate_buf_of_rejected {cfg : Config} {c : Bytes}
    (h : (parseCandidate cfg c).reply.outcome = .badLength ∨ (parseCandidate cfg c).reply.outcome = .crcMismatch) :
    (parseCandidate cfg c).buf = c.drop 1 := by
  rcases parseCandidate_cases cfg c with ⟨_, e⟩ | ⟨_, _, e⟩ | ⟨_, _, _, _, e⟩ | ⟨_, _, _, _, _, e⟩ | ⟨_, _, _, _, _, e⟩ <;>
    rw [e] at h ⊢
  -- left are outcomes 2, 4 and 6, which are neither
  all_goals rcases h with h | h <;> cases h

/-- Settles O46: what a call with progress removes, `drain_ends`, and `drainLoop_eq_of_fuel`. -/
theorem drainTerminates : Obligations.DrainTerminates := by
  refine ⟨?removed, ?ends, ?fuel⟩
  case removed =>
    intro s t r h hr g c hc
    have hp : parseCandidate hw c = ⟨r, t.buf⟩ := (parseBuf_candidate hw hc).symm.trans (exec_tryParseOne_next h hr)
    have hpos : 1 ≤ c.length := (candidate_head hc.2.2).2
    have hs : s.buf.length = g.length + c.length := by rw [hc.1, List.length_append]
    refine ⟨fun ho => ?rejected, fun ho => ?success⟩
    case rejected =>
      have hbuf : t.buf = c.drop 1 := by simpa [hp] using parseCandidate_buf_of_rejected (cfg := hw) (c := c) (by rwa [hp])
      rw [hbuf, List.length_drop]
      omega
    case success =>
      obtain ⟨h4, _, hlen, _, hdrop⟩ := parseCandidate_success (cfg := hw) (c := c) (by rwa [hp])
      have hbuf : t.buf = c.drop (byteAt c 1).toNat := by rwa [hp] at hdrop
      rw [hbuf, List.length_drop]
      exact ⟨by omega, h4⟩
  case ends =>
    intro cfg s
    obtain ⟨init, v, e, hinit, hlast, hlen⟩ := drain_ends cfg s
    refine ⟨init, (parseBuf cfg v.buf).reply, by rw [e], hinit, hlast, ?_⟩
    rw [e, List.length_append]
    exact Nat.add_le_add_right hlen 1
  case fuel =>
    intro cfg s fuel hf
    exact drainLoop_eq_of_fuel hf (Nat.lt_succ_self _)

/-- Every drained form has at most 63 bytes: fewer than a declared length of at most 64. -/
theorem drainedForm_length_le {buf : Bytes} (h : DrainedForm buf) : buf.length ≤ 63 := by
  rcases h with rfl | ⟨_, _, _⟩ | ⟨_, _, _, _, _⟩
  · exact Nat.zero_le 63
  · omega
  · omega

/-- A parse of a drained form answers the outcome that belongs to it. -/
theorem outcome_of_drainedForm {cfg : Config} (hmin : cfg.hdrMin = 4) {buf : Bytes} (h : DrainedForm buf) :
    (parseBuf cfg buf).reply.outcome = .noSync ∧ buf = [] ∨
    (parseBuf cfg buf).reply.outcome = .syncShort ∧ byteAt buf 0 = SYNC ∧ 1 ≤ buf.length ∧ buf.length ≤ 3 ∨
    (parseBuf cfg buf).reply.outcome = .lenShort ∧ byteAt buf 0 = SYNC ∧ 4 ≤ (byteAt buf 1).toNat ∧ (byteAt buf 1).toNat ≤ 64 ∧
      4 ≤ buf.length ∧ buf.length < (byteAt buf 1).toNat := by
  have hcandidate : byteAt buf 0 = SYNC → 1 ≤ buf.length → parseBuf cfg buf = parseCandidate cfg buf := fun hsync hpos =>
    parseBuf_candidate cfg (candidateAfter_nil (by rw [getElem?_eq_byteAt hpos, hsync]))
  rcases h with rfl | ⟨hsync, hpos, h3⟩ | ⟨hsync, h4, h64, hl, hlt⟩
  · exact .inl ⟨rfl, rfl⟩
  · rw [hcandidate hsync hpos, parseCandidate_of_short (by omega)]
    exact .inr (.inl ⟨rfl, hsync, hpos, h3⟩)
  · rw [hcandidate hsync (by omega), parseCandidate_of_lenShort (by omega) h4 h64 hlt]
    exact .inr (.inr ⟨rfl, hsync, h4, h64, hl, hlt⟩)

/-- A drain leaves one of the three drained forms (R154). -/
theorem drainedForm_drain {cfg : Config} (hmin : cfg.hdrMin = 4) (s : State) : DrainedForm (drain cfg s).state.buf := by
  obtain ⟨_, v, e, _, hlast, _⟩ := drain_ends cfg s
  rw [e]
  exact drainedForm_parseBuf hmin hlast

/-- Settles O47: the last reply is the one that a parse of the drained form repeats. -/
theorem drainEndsInOneOfThreeForms : Obligations.DrainEndsInOneOfThreeForms := by
  intro s
  have hform := drainedForm_drain (cfg := hw) rfl s
  obtain ⟨init, v, e, _, hlast, _⟩ := drain_ends hw s
  rw [e] at hform ⊢
  refine ⟨(parseBuf hw v.buf).reply, List.getLast?_concat, ?_, drainedForm_length_le hform⟩
  have houtcome := outcome_of_drainedForm (cfg := hw) rfl hform
  rwa [afterParse_buf, (parseBuf_repeats_iff hw v.buf).2 hlast] at houtcome

/-! ### What later bytes change (R155) -/

/-- A candidate's length byte is there as soon as its header is. -/
theorem byteAt_one_append {cfg : Config} {c : Bytes} (hhdr : cfg.hdrMin ≤ c.length) (x : Bytes) : byteAt (c ++ x) 1 = byteAt c 1 := by
  have hmin : 4 ≤ cfg.hdrMin := cfg.hdrMin_ge
  exact byteAt_append (by omega)

/-- A candidate check with progress has seen all it depends on: bytes behind change neither the reply nor what it removes. -/
theorem parseCandidate_append_of_progress {cfg : Config} {c : Bytes} (h : (parseCandidate cfg c).reply.progress = true) (x : Bytes) :
    parseCandidate cfg (c ++ x) = ⟨(parseCandidate cfg c).reply, (parseCandidate cfg c).buf ++ x⟩ := by
  have hmin : 4 ≤ cfg.hdrMin := cfg.hdrMin_ge
  have hlength : (c ++ x).length = c.length + x.length := List.length_append
  rcases parseCandidate_cases cfg c with ⟨_, e⟩ | ⟨hhdr, hbad, e⟩ | ⟨_, _, _, _, e⟩ | ⟨hhdr, h4, h64, hlen, hcrc, e⟩ |
    ⟨hhdr, h4, h64, hlen, hcrc, e⟩ <;> rw [e] at h ⊢
  · cases h
  · rw [← byteAt_one_append hhdr x] at hbad
    rw [parseCandidate_of_badLength (by omega) hbad, List.drop_append_of_le_length (by omega)]
  · cases h
  · have hone := byteAt_one_append hhdr x
    have htake := List.take_append_of_le_length (l₂ := x) hlen
    rw [← hone] at h4 h64
    rw [parseCandidate_of_crc_ne (by omega) h4 h64 (by rw [hone]; omega) (by rwa [hone, htake]),
      List.drop_append_of_le_length (by omega)]
  · have hone := byteAt_one_append hhdr x
    have htake := List.take_append_of_le_length (l₂ := x) hlen
    rw [← hone] at h4 h64
    rw [parseCandidate_of_crc_eq (by omega) h4 h64 (by rw [hone]; omega) (by rwa [hone, htake]), hone, htake,
      List.drop_append_of_le_length hlen]

/-- A parse with progress answers the same, and removes the same, whatever bytes come later. -/
theorem parseBuf_append_of_progress {cfg : Config} {buf : Bytes} (h : (parseBuf cfg buf).reply.progress = true) (x : Bytes) :
    parseBuf cfg (buf ++ x) = ⟨(parseBuf cfg buf).reply, (parseBuf cfg buf).buf ++ x⟩ := by
  rcases parseBuf_cases cfg buf with ⟨_, e⟩ | ⟨g, c, ⟨rfl, hg, hc⟩, e⟩ <;> rw [e] at h ⊢
  · cases h
  · rw [parseBuf_candidate cfg (candidateAfter_append hg hc x), parseCandidate_append_of_progress h]

/-- A parse without progress removed nothing that a parse with later bytes would have needed. -/
theorem parseBuf_append_of_no_progress {cfg : Config} {buf : Bytes} (h : (parseBuf cfg buf).reply.progress = false) (x : Bytes) :
    parseBuf cfg (buf ++ x) = parseBuf cfg ((parseBuf cfg buf).buf ++ x) := by
  obtain ⟨removed, hbuf, hfree⟩ := parseBuf_removes_syncFree h
  calc parseBuf cfg (buf ++ x) = parseBuf cfg (removed ++ ((parseBuf cfg buf).buf ++ x)) := by rw [← List.append_assoc, ← hbuf]
    _ = parseBuf cfg ((parseBuf cfg buf).buf ++ x) := leadingGarbageIsInvisible cfg removed _ hfree

/-! ### Chunking independence (R155) -/

/-- Two traces are the same to R155: the same progress replies in order, and the same final buffer. -/
def SameDelivery (a b : Trace) : Prop :=
  progressReplies a.replies = progressReplies b.replies ∧ a.state.buf = b.state.buf

/-- Commands, and a drain at the end. -/
def runThenDrain (cfg : Config) (cmds : List Instr) (s : State) : Trace :=
  ⟨(drain cfg (runCommands cfg cmds s).state).state,
    (runCommands cfg cmds s).replies ++ (drain cfg (runCommands cfg cmds s).state).replies⟩

theorem runThenDrain_nil (cfg : Config) (s : State) : runThenDrain cfg [] s = drain cfg s := rfl

theorem runThenDrain_cons {cfg : Config} {i : Instr} {s t : State} (rest : List Instr) (h : execWith cfg i s = .next t) :
    runThenDrain cfg (i :: rest) s = ⟨(runThenDrain cfg rest t).state, repliesOf t ++ (runThenDrain cfg rest t).replies⟩ := by
  rw [runThenDrain, runCommands_cons rest h, List.append_assoc]
  rfl

/-- A drain depends on the buffer only, and on that only through its first parse. -/
theorem drain_congr {cfg : Config} {s s' : State} (h : parseBuf cfg s.buf = parseBuf cfg s'.buf) :
    (drain cfg s).replies = (drain cfg s').replies ∧ (drain cfg s).state.buf = (drain cfg s').state.buf := by
  induction s using drain_induction (cfg := cfg) generalizing s' with
  | stop s hp =>
    rw [drain_of_no_progress hp, drain_of_no_progress (s := s') (h ▸ hp), h]
    exact ⟨rfl, congrArg Parsed.buf h⟩
  | go s hp ih =>
    obtain ⟨hreplies, hbuf⟩ := ih (s' := afterParse cfg s') (by rw [afterParse_buf, afterParse_buf, h])
    rw [drain_of_progress hp, drain_of_progress (s := s') (h ▸ hp), h, hreplies]
    exact ⟨rfl, hbuf⟩

theorem appendedBytes_cons_of_not_parser {i : Instr} (hi : unitOf i ≠ .parser) (rest : List Instr) :
    appendedBytes (i :: rest) = appendedBytes rest := by
  cases i with
  | append data => exact absurd rfl hi
  | _ => rfl

/-- What a command of a stream does to a parser without a capacity: TRY_PARSE_ONE parses, and every other command answers no parser
reply and adds the bytes it appends, if any. -/
theorem execWith_of_keepsStream {cfg : Config} (hcap : cfg.bufCap = none) {i : Instr} (hi : keepsStream i = true) (s : State) :
    i = .tryParseOne ∨ ∃ t, execWith cfg i s = .next t ∧ repliesOf t = [] ∧
      ∀ rest, s.buf ++ appendedBytes (i :: rest) = t.buf ++ appendedBytes rest := by
  by_cases hp : unitOf i = .parser
  · rcases (unitOf_eq_parser_iff i).1 hp with ⟨data, rfl⟩ | rfl | rfl
    · have hfits : ¬ exceeds cfg.bufCap (s.buf.length + data.length) = true := not_exceeds_of_le (by rw [hcap]; exact nofun)
      exact .inr ⟨_, execWith_append_of_fits hfits, rfl, fun rest => (List.append_assoc _ _ _).symm⟩
    · exact .inl rfl
    · cases hi
  · obtain ⟨t, ht, hbuf, hreplies⟩ := execWith_silent_of_not_parser cfg hp s
    exact .inr ⟨t, ht, hreplies, fun rest => by rw [hbuf, appendedBytes_cons_of_not_parser hp]⟩

/-- A call in the middle of a stream changes neither the deliveries nor the final buffer: with progress it answers what the drain of the
whole stream answers first, and without progress it answers nothing that counts. -/
theorem sameDelivery_of_tryParseOne {cfg : Config} {s u : State} {x : Bytes} {later : Trace} (hu : u.buf = s.buf ++ x)
    (hlater : ∀ u' : State, u'.buf = (afterParse cfg s).buf ++ x → SameDelivery later (drain cfg u')) :
    SameDelivery ⟨later.state, repliesOf (afterParse cfg s) ++ later.replies⟩ (drain cfg u) := by
  cases hp : (parseBuf cfg s.buf).reply.progress with
  | true =>
    have hparse : parseBuf cfg u.buf = ⟨(parseBuf cfg s.buf).reply, (parseBuf cfg s.buf).buf ++ x⟩ := by
      rw [hu, parseBuf_append_of_progress hp]
    obtain ⟨hreplies, hbuf⟩ := hlater (afterParse cfg u) (by rw [afterParse_buf, hparse]; rfl)
    rw [drain_of_progress (by rw [hparse]; exact hp), hparse]
    refine ⟨?_, hbuf⟩
    simpa [progressReplies, hp] using hreplies
  | false =>
    have hparse : parseBuf cfg u.buf = parseBuf cfg (setBuf ((afterParse cfg s).buf ++ x) u).buf := by
      rw [hu, parseBuf_append_of_no_progress hp]
      rfl
    obtain ⟨hreplies, hbuf⟩ := hlater (setBuf ((afterParse cfg s).buf ++ x) u) rfl
    obtain ⟨hsame, hsamebuf⟩ := drain_congr hparse
    refine ⟨?_, hbuf.trans hsamebuf.symm⟩
    rw [hsame, ← hreplies]
    simp [progressReplies, hp]

/-- Any commands of a stream and a drain at the end deliver what a drain of all the bytes delivers. -/
theorem sameDelivery_runThenDrain {cfg : Config} (hcap : cfg.bufCap = none) {cmds : List Instr}
    (hcmds : ∀ i ∈ cmds, keepsStream i = true) {s u : State} (hu : u.buf = s.buf ++ appendedBytes cmds) :
    SameDelivery (runThenDrain cfg cmds s) (drain cfg u) := by
  induction cmds generalizing s u with
  | nil =>
    rw [appendedBytes, List.append_nil] at hu
    rw [runThenDrain_nil]
    obtain ⟨hreplies, hbuf⟩ := drain_congr (cfg := cfg) (s := s) (s' := u) (by rw [hu])
    exact ⟨congrArg progressReplies hreplies, hbuf⟩
  | cons i rest ih =>
    obtain ⟨hi, hrest⟩ := List.forall_mem_cons.1 hcmds
    rcases execWith_of_keepsStream hcap hi s with rfl | ⟨t, ht, hreplies, happended⟩
    · rw [runThenDrain_cons rest (execWith_tryParseOne cfg s)]
      exact sameDelivery_of_tryParseOne hu fun u' hu' => ih hrest hu'
    · rw [runThenDrain_cons rest ht, hreplies]
      exact ih hrest (hu.trans (happended rest))

/-! ### The packets among the replies -/

/-- A reply that carries a message makes progress (30_encoding.md R73). -/
theorem progress_of_message {r : ParseReply} (hr : ReplyOk r) (hm : r.message = true) : r.progress = true := by
  obtain ⟨hprogress, hmessage, _, _⟩ := hr
  rw [hprogress, (outcomeMessage_eq_true_iff r.outcome).1 (hmessage ▸ hm)]
  rfl

/-- The packets are among the progress replies. -/
theorem packets_progressReplies {rs : List ParseReply} (h : ∀ r ∈ rs, ReplyOk r) : packets (progressReplies rs) = packets rs := by
  rw [packets, packets, progressReplies, List.filterMap_filter]
  refine List.filterMap_congr fun r hr => ?_
  cases hm : r.message with
  | false => simp
  | true => simp [progress_of_message (h r hr) hm]

theorem replyOk_drain {cfg : Config} (s : State) : ∀ r ∈ (drain cfg s).replies, ReplyOk r := by
  induction s using drain_induction (cfg := cfg) with
  | stop s hp =>
    rw [drain_of_no_progress hp]
    exact List.forall_mem_singleton.2 (replyOk_parseBuf cfg s.buf)
  | go s hp ih =>
    rw [drain_of_progress hp]
    exact List.forall_mem_cons.2 ⟨replyOk_parseBuf cfg s.buf, ih⟩

theorem replyOk_runThenDrain {cfg : Config} (hcap : cfg.bufCap = none) {cmds : List Instr} (hcmds : ∀ i ∈ cmds, keepsStream i = true)
    (s : State) : ∀ r ∈ (runThenDrain cfg cmds s).replies, ReplyOk r := by
  induction cmds generalizing s with
  | nil =>
    rw [runThenDrain_nil]
    exact replyOk_drain s
  | cons i rest ih =>
    obtain ⟨hi, hrest⟩ := List.forall_mem_cons.1 hcmds
    rcases execWith_of_keepsStream hcap hi s with rfl | ⟨t, ht, hreplies, _⟩
    · rw [runThenDrain_cons rest (execWith_tryParseOne cfg s)]
      exact List.forall_mem_cons.2 ⟨replyOk_parseBuf cfg s.buf, ih hrest _⟩
    · rw [runThenDrain_cons rest ht, hreplies]
      exact ih hrest t

/-- Any commands of a stream and a drain at the end give the packets of a drain of all the bytes. -/
theorem packets_runThenDrain {cfg : Config} (hcap : cfg.bufCap = none) {cmds : List Instr} (hcmds : ∀ i ∈ cmds, keepsStream i = true)
    {s u : State} (hu : u.buf = s.buf ++ appendedBytes cmds) :
    packets (runThenDrain cfg cmds s).replies = packets (drain cfg u).replies := by
  obtain ⟨hreplies, _⟩ := sameDelivery_runThenDrain hcap hcmds hu
  rw [← packets_progressReplies (replyOk_runThenDrain hcap hcmds s), hreplies, packets_progressReplies (replyOk_drain u)]

/-- `feed` within the capacity is a drain behind the appended bytes (R165). -/
theorem feed_eq_drain {cfg : Config} {data : Bytes} {s : State}
    (h : ∀ n, cfg.bufCap = some n → s.buf.length + data.length ≤ n) :
    ∃ u, feed cfg data s = drain cfg u ∧ u.buf = s.buf ++ data ∧ u.faultMark = s.faultMark := by
  have happend : runAppend cfg data s = .next (respond (.ok .empty) (setBuf (s.buf ++ data) s)) :=
    execWith_append_of_fits (not_exceeds_of_le h)
  exact ⟨respond (.ok .empty) (setBuf (s.buf ++ data) s), by rw [feed, happend], rfl, rfl⟩

/-- Settles O48: both sides deliver what a drain of the whole stream delivers; the buffer need not be empty before. -/
theorem chunkingDoesNotMatter : Obligations.ChunkingDoesNotMatter := by
  intro cfg cmds s hcap _ hcmds
  obtain ⟨u, hfeed, hu, _⟩ := feed_eq_drain (cfg := cfg) (data := appendedBytes cmds) (s := s) (by rw [hcap]; exact nofun)
  rw [hfeed]
  exact ⟨packets_runThenDrain hcap hcmds hu, sameDelivery_runThenDrain hcap hcmds hu⟩

/-! ### Encoded frames in a stream (R156, R158, R160) -/

/-- An encoded frame behind garbage without a sync byte is answered with its own pair, and the bytes behind it stay (R160). -/
theorem parseBuf_encodeFrame {cfg : Config} (hmin : cfg.hdrMin = 4) (typeId : Byte) {payload garbage : Bytes}
    (hpayload : payload.length ≤ 60) (hg : SyncFree garbage) (rest : Bytes) :
    parseBuf cfg (garbage ++ encodeFrame cfg typeId payload ++ rest) = ⟨messageReply ⟨typeId, payload⟩, rest⟩ := by
  rw [parseBuf_candidate cfg (candidateAfter_append hg rfl rest),
    parseCandidate_of_valid (valid_encodeFrame cfg typeId hpayload) (by rw [encodeFrame_length]; omega), packetOf_encodeFrame]

/-- Settles O52: `parseBuf_encodeFrame` at `hw`. -/
theorem anyEncodedFrameIsExtracted : Obligations.AnyEncodedFrameIsExtracted := by
  intro typeId payload garbage rest s hpayload hg hs
  exact execWith_tryParseOne_of_parseBuf (hs ▸ parseBuf_encodeFrame rfl typeId hpayload hg rest)

/-- A drain of a buffer with an encoded frame at its front answers the frame's pair and goes on behind the frame. -/
theorem drain_encodeFrame {cfg : Config} (hmin : cfg.hdrMin = 4) {typeId : Byte} {payload rest : Bytes} (hpayload : payload.length ≤ 60)
    {u : State} (hu : u.buf = encodeFrame cfg typeId payload ++ rest) :
    ∃ v, v.buf = rest ∧ drain cfg u = ⟨(drain cfg v).state, messageReply ⟨typeId, payload⟩ :: (drain cfg v).replies⟩ := by
  have hparse : parseBuf cfg u.buf = ⟨messageReply ⟨typeId, payload⟩, rest⟩ :=
    hu ▸ parseBuf_encodeFrame (garbage := []) hmin typeId hpayload nofun rest
  refine ⟨afterParse cfg u, by rw [afterParse_buf, hparse], ?_⟩
  rw [drain_of_progress (by rw [hparse]; rfl), hparse]

/-- A drain of an empty buffer is one NO_SYNC. -/
theorem drain_of_buf_eq_nil {cfg : Config} {u : State} (hu : u.buf = []) :
    (drain cfg u).replies = [bareReply .noSync] ∧ (drain cfg u).state.buf = [] := by
  have hparse : parseBuf cfg u.buf = ⟨bareReply .noSync, []⟩ := by
    rw [hu]
    rfl
  rw [drain_of_no_progress (by rw [hparse]; rfl), hparse]
  exact ⟨rfl, by rw [afterParse_buf, hparse]⟩

/-- Settles O49: the frame by `drain_encodeFrame`, and then the empty buffer. -/
theorem cleanFrameIsDelivered : Obligations.CleanFrameIsDelivered := by
  intro typeId payload s hpayload hs
  obtain ⟨u, hfeed, hu, _⟩ := feed_eq_drain (cfg := hw) (data := encodeFrame hw typeId payload) (s := s) nofun
  rw [hs, List.nil_append, ← List.append_nil (encodeFrame hw typeId payload)] at hu
  obtain ⟨v, hv, hdrain⟩ := drain_encodeFrame rfl hpayload hu
  obtain ⟨hreplies, hbuf⟩ := drain_of_buf_eq_nil (cfg := hw) hv
  rw [hfeed, hdrain, hreplies]
  exact ⟨rfl, hbuf⟩

/-- Settles O51: the change is behind the first two bytes, so the candidate and its declared length are the frame's, and its CRC is not. -/
theorem corruptedFrameIsRejected : Obligations.CorruptedFrameIsRejected := by
  intro cfg typeId payload l r rest b k s hmin hdetects hpayload hk hl hframe hs
  have hvalid := valid_encodeFrame cfg typeId hpayload
  rw [hframe] at hvalid
  obtain ⟨h4, h64, hsync, _, hcrc⟩ := (valid_iff cfg _).1 hvalid
  have hlength : (l ++ flipBit k b :: r).length = (l ++ b :: r).length := by simp
  have hhead : ∀ x : Bytes, (l ++ x)[0]? = l[0]? := fun x => List.getElem?_append_left (by omega)
  have hdeclared : (byteAt ((l ++ flipBit k b :: r) ++ rest) 1).toNat = (l ++ flipBit k b :: r).length := by
    have hone := byteAt_one_of_valid hvalid rest
    rw [List.append_assoc, byteAt_append hl] at hone
    rw [List.append_assoc, byteAt_append hl, hone, hlength]
  have hcandidate : CandidateAfter [] ((l ++ flipBit k b :: r) ++ rest) s.buf := by
    rw [hs]
    refine candidateAfter_nil ?_
    rw [List.append_assoc, hhead, ← hhead, hsync]
  refine execWith_tryParseOne_of_crc_ne hmin hcandidate ?_ ?_ ?_ ?_ <;> rw [hdeclared]
  · rwa [hlength]
  · rwa [hlength]
  · exact (List.sublist_append_left _ rest).length_le
  · rw [List.take_left]
    exact hcrc ▸ hdetects l r b k hk

/-! ### Resynchronisation past garbage (R157) -/

theorem slice_cons (x : Byte) (s : Bytes) (i j : Nat) : slice (x :: s) (i + 1) (j + 1) = slice s i j := by
  simp [slice]

/-- The premise on garbage covers what is left of it behind its first byte. -/
theorem noAccidentalFrame_tail {cfg : Config} {x : Byte} {g y : Bytes} (h : NoAccidentalFrame cfg (x :: g) y) :
    NoAccidentalFrame cfg g y := by
  intro q hq hsync
  rcases h (q + 1) (Nat.succ_lt_succ hq) hsync with hshort | hlong | ⟨hlen, hcrc⟩
  · exact .inl hshort
  · exact .inr (.inl hlong)
  · rw [Nat.add_right_comm] at hlen hcrc
    exact .inr (.inr ⟨Nat.le_of_succ_le_succ hlen, slice_cons x (g ++ y) q _ ▸ hcrc⟩)

/-- A sync byte at the front of such garbage is rejected, by its length or by its CRC, and only it goes. -/
theorem parseBuf_of_noAccidentalFrame {cfg : Config} (hmin : cfg.hdrMin = 4) {g y : Bytes} (hy : 4 ≤ y.length)
    (h : NoAccidentalFrame cfg (SYNC :: g) y) :
    ∃ o, outcomeProgress o = true ∧ outcomeMessage o = false ∧ parseBuf cfg (SYNC :: g ++ y) = ⟨bareReply o, g ++ y⟩ := by
  have hhdr : cfg.hdrMin ≤ (SYNC :: g ++ y).length := by
    rw [List.length_append]
    omega
  rw [parseBuf_candidate cfg (candidateAfter_nil rfl)]
  by_cases hbad : (byteAt (SYNC :: g ++ y) 1).toNat < 4 ∨ (byteAt (SYNC :: g ++ y) 1).toNat > 64
  · exact ⟨.badLength, rfl, rfl, parseCandidate_of_badLength hhdr hbad⟩
  · obtain ⟨hlen, hcrc⟩ := ((or_assoc.2 (h 0 (Nat.succ_pos _) rfl)).resolve_left hbad)
    rw [Nat.zero_add, Nat.zero_add] at hlen
    rw [Nat.zero_add, Nat.zero_add, slice_from_zero] at hcrc
    exact ⟨.crcMismatch, rfl, rfl, parseCandidate_of_crc_ne hhdr (by omega) (by omega) hlen hcrc⟩

/-- A drain gives no packet for garbage without an accidental frame, and goes on behind it: each sync byte of the garbage is rejected, and
each other byte of it is invisible. -/
theorem drain_past_garbage {cfg : Config} (hmin : cfg.hdrMin = 4) {g y : Bytes} (hy : 4 ≤ y.length) (hg : NoAccidentalFrame cfg g y)
    {u v : State} (hu : u.buf = g ++ y) (hv : v.buf = y) :
    packets (drain cfg u).replies = packets (drain cfg v).replies ∧ (drain cfg u).state.buf = (drain cfg v).state.buf := by
  induction g generalizing u with
  | nil =>
    obtain ⟨hreplies, hbuf⟩ := drain_congr (cfg := cfg) (s := u) (s' := v) (by rw [hu, hv, List.nil_append])
    exact ⟨congrArg packets hreplies, hbuf⟩
  | cons x g ih =>
    by_cases hx : x = SYNC
    · subst hx
      obtain ⟨o, hprogress, hmessage, hparse⟩ := parseBuf_of_noAccidentalFrame hmin hy hg
      rw [← hu] at hparse
      obtain ⟨hpackets, hbuf⟩ := ih (noAccidentalFrame_tail hg) (u := afterParse cfg u) (by rw [afterParse_buf, hparse])
      rw [drain_of_progress (by rw [hparse]; exact hprogress), hparse, ← hpackets]
      exact ⟨by simp [packets, bareReply, hmessage], hbuf⟩
    · have hparse : parseBuf cfg u.buf = parseBuf cfg (setBuf (g ++ y) u).buf := by
        rw [hu]
        exact leadingGarbageIsInvisible cfg [x] (g ++ y) (List.forall_mem_singleton.2 hx)
      obtain ⟨hreplies, hbuf⟩ := drain_congr hparse
      rw [hreplies, hbuf]
      exact ih (noAccidentalFrame_tail hg) rfl

/-- A drain of two encoded frames gives their pairs in order and leaves nothing. -/
theorem drain_two_frames {cfg : Config} (hmin : cfg.hdrMin = 4) {typeA typeB : Byte} {payloadA payloadB : Bytes}
    (hA : payloadA.length ≤ 60) (hB : payloadB.length ≤ 60) {v : State}
    (hv : v.buf = encodeFrame cfg typeA payloadA ++ encodeFrame cfg typeB payloadB) :
    packets (drain cfg v).replies = [⟨typeA, payloadA⟩, ⟨typeB, payloadB⟩] ∧ (drain cfg v).state.buf = [] := by
  obtain ⟨w, hw, hdrainA⟩ := drain_encodeFrame hmin hA hv
  obtain ⟨z, hz, hdrainB⟩ := drain_encodeFrame hmin hB (hw.trans (List.append_nil _).symm)
  obtain ⟨hreplies, hbuf⟩ := drain_of_buf_eq_nil (cfg := cfg) hz
  rw [hdrainA, hdrainB, hreplies]
  exact ⟨rfl, hbuf⟩

/-- Settles O50: by chunking independence it is a drain of the whole stream, which passes the garbage and then delivers the two frames. -/
theorem resynchronisesPastGarbage : Obligations.ResynchronisesPastGarbage := by
  intro cfg garbage typeA typeB payloadA payloadB cmds s hmin hcap hA hB hs hgarbage hcmds hstream
  let frames := encodeFrame cfg typeA payloadA ++ encodeFrame cfg typeB payloadB
  have hwhole : (setBuf (garbage ++ frames) s).buf = s.buf ++ appendedBytes cmds := by
    rw [hs, hstream]
    rfl
  have hlength : 4 ≤ frames.length := by
    rw [List.length_append, encodeFrame_length]
    omega
  obtain ⟨_, hbuf⟩ := sameDelivery_runThenDrain hcap hcmds hwhole
  obtain ⟨hpacketsG, hbufG⟩ := drain_past_garbage hmin hlength hgarbage (setBuf_buf _ s) (setBuf_buf frames s)
  obtain ⟨hpacketsF, hbufF⟩ := drain_two_frames hmin hA hB (setBuf_buf frames s)
  exact ⟨(packets_runThenDrain hcap hcmds hwhole).trans (hpacketsG.trans hpacketsF), hbuf.trans (hbufG.trans hbufF)⟩

/-! ### The bound of a drained buffer (R167) -/

theorem drain_faultMark {cfg : Config} (s : State) : (drain cfg s).state.faultMark = s.faultMark := by
  induction s using drain_induction (cfg := cfg) with
  | stop s hp => rw [drain_of_no_progress hp, afterParse_faultMark]
  | go s hp ih => rw [drain_of_progress hp, ih, afterParse_faultMark]

/-- Feeding chunks of at most `k` bytes keeps at most 63 bytes and takes no fault, when the capacity holds 63 bytes and a chunk. -/
theorem feedAll_bounded {cfg : Config} {k : Nat} (hmin : cfg.hdrMin = 4) (hcap : ∀ n, cfg.bufCap = some n → 63 + k ≤ n)
    {chunks : List Bytes} (hchunks : ∀ c ∈ chunks, c.length ≤ k) {s : State} (hs : s.buf.length ≤ 63) :
    (feedAll cfg chunks s).state.faultMark = s.faultMark ∧ (feedAll cfg chunks s).state.buf.length ≤ 63 := by
  induction chunks generalizing s with
  | nil => exact ⟨rfl, hs⟩
  | cons c rest ih =>
    obtain ⟨hc, hrest⟩ := List.forall_mem_cons.1 hchunks
    obtain ⟨u, hfeed, _, hmark⟩ := feed_eq_drain (cfg := cfg) (data := c) (s := s) fun n hn => by
      have := hcap n hn
      omega
    obtain ⟨ihmark, ihlen⟩ := ih hrest (s := (feed cfg c s).state) (by
      rw [hfeed]
      exact drainedForm_length_le (drainedForm_drain hmin u))
    refine ⟨ihmark.trans ?_, ihlen⟩
    rw [hfeed, drain_faultMark, hmark]

/-- Calls of TRY_PARSE_ONE never make the buffer longer. -/
theorem runCommands_parse_buf_length_le (cfg : Config) (calls : Nat) (t : State) :
    (runCommands cfg (List.replicate calls .tryParseOne) t).state.buf.length ≤ t.buf.length := by
  induction calls generalizing t with
  | zero => exact Nat.le_refl _
  | succ calls ih =>
    rw [List.replicate_succ, runCommands_cons _ (execWith_tryParseOne cfg t)]
    exact (ih (afterParse cfg t)).trans (parseBuf_buf_length_le cfg t.buf)

/-- Settles O53: `feedAll_bounded` before the last APPEND, which fits, and TRY_PARSE_ONE only removes. -/
theorem drainedBufferIsBounded : Obligations.DrainedBufferIsBounded := by
  intro cfg k before chunk s hmin hcap hs hbefore hchunk
  obtain ⟨hmark, hlen⟩ := feedAll_bounded hmin hcap hbefore (s := s) (by simp [hs])
  have hfits : (feedAll cfg before s).state.buf.length + chunk.length ≤ 63 + k := Nat.add_le_add hlen hchunk
  refine ⟨hmark, hlen, _, execWith_append_of_fits (not_exceeds_of_le fun n hn => hfits.trans (hcap n hn)), rfl, ?_, fun calls => ?_⟩
  · rwa [respond_buf, setBuf_buf, List.length_append]
  · refine (runCommands_parse_buf_length_le cfg calls _).trans ?_
    rwa [respond_buf, setBuf_buf, List.length_append]

end Sys2Proof.Machine
end

section
/-! PROOFS, 60_exceptions.md: commands complete or fault as a whole (R187), the fault table (R183), the sticky mark (R184), and the idle
block (R193). -/

namespace Sys2Proof.Machine

/-- Settles O11: `exec` is `execWith hw`, and under every configuration a command completes or takes a model fault. -/
theorem everyCommandAnswersANextState : Obligations.EveryCommandAnswersANextState := by
  intro i s
  rw [exec_eq_execWith]
  exact execWith_eq_next hw i s

/-- Issuing, in the case of an empty port (R193). -/
theorem issue_of_no_pending (run : Instr → State → StepOutcome) {s : State} (hp : s.pending = []) : issue run s = .next (idle s) := by
  simp only [issue, hp]

/-- Settles O7: the idle step writes the response port only. -/
theorem idleStepKeepsTheBuffer : Obligations.IdleStepKeepsTheBuffer :=
  fun _ hp => issue_of_no_pending exec hp

/-! ### The fault mark (R184) -/

/-- Everything a step that answers a next state can do: nothing is issued, a command completes, or a fault is taken, by the command or by
the decoder. -/
theorem stepWith_next_cases {cfg : Config} {s t : State} (h : stepWith cfg s = .next t) :
    t = idle s ∨
    (∃ rest r v, t = respond (.ok r) (setBuf v (setPending rest s))) ∨
    (∃ rest f, t = respond (.fault f) (setFaultMark (setPending rest s))) := by
  rcases issue_next_cases h with ⟨_, ht⟩ | ⟨_, rest, i, _, _, hrun⟩ | ⟨_, rest, op, _, _, ht⟩
  · exact .inl ht
  · rcases execWith_cases cfg i (setPending rest s) with ⟨r, v, e⟩ | ⟨f, e⟩
    · exact .inr (.inl ⟨rest, r, v, (complete_next_iff _ _ _).1 (e ▸ hrun)⟩)
    · exact .inr (.inr ⟨rest, f, (raiseFault_next_iff _ _ _).1 (e ▸ hrun)⟩)
  · exact .inr (.inr ⟨rest, _, ht⟩)

/-- Settles O14: an idle step and a completed command answer no fault and leave the mark, and a fault leaves `buf` and sets the mark. -/
theorem faultMarkIsSticky : Obligations.FaultMarkIsSticky := by
  intro cfg s t h
  have hstep : ∃ cfg', stepWith cfg' s = .next t := h.elim (fun h => ⟨hw, step_eq_stepWith s ▸ h⟩) (fun h => ⟨cfg, h⟩)
  obtain ⟨_, hstep⟩ := hstep
  rcases stepWith_next_cases hstep with rfl | ⟨rest, r, v, rfl⟩ | ⟨rest, f, rfl⟩
  · simp [Successful]
  · simp [Successful]
  · simp [Successful]

/-! ### The fault table (R183) -/

/-- A row of the fault table: what completes outside the condition `c` and raises `f₀` under it answers a fault exactly under `c`, and
that fault is `f₀`. -/
theorem response_fault_iff_of_row {o : StepOutcome} {c : Prop} {f₀ : Fault} {s t : State} (hfault : c → o = raiseFault f₀ s)
    (hok : ¬ c → ∃ r s', o = complete r s') (h : o = .next t) (f : Fault) : t.response = some (.fault f) ↔ c ∧ f = f₀ := by
  by_cases hc : c
  · obtain rfl := (raiseFault_next_iff _ _ _).1 (hfault hc ▸ h)
    simp [hc, eq_comm]
  · obtain ⟨r, s', e⟩ := hok hc
    obtain rfl := (complete_next_iff _ _ _).1 (e ▸ h)
    simp [hc]

/-- Row 1 (R183): ENCODE. -/
theorem response_fault_encode_iff {cfg : Config} {typeId : Byte} {payload : Bytes} {s t : State}
    (h : execWith cfg (.encode typeId payload) s = .next t) (f : Fault) :
    t.response = some (.fault f) ↔ payload.length > 60 ∧ f = .encOversize payload.length :=
  response_fault_iff_of_row (execWith_encode_of_gt cfg typeId s)
    (fun hc => ⟨_, _, execWith_encode_of_le cfg typeId s (Nat.not_lt.1 hc)⟩) h f

/-- Row 2 (R183): DECODE_VALIDATED. -/
theorem response_fault_decodeValidated_iff {cfg : Config} {frame : Bytes} {s t : State}
    (h : execWith cfg (.decodeValidated frame) s = .next t) (f : Fault) :
    t.response = some (.fault f) ↔ ¬ valid cfg frame = true ∧ f = .decUnvalidated frame.length :=
  response_fault_iff_of_row (execWith_decodeValidated_of_not_valid s)
    (fun hc => ⟨_, _, execWith_decodeValidated_of_valid s (not_not.1 hc)⟩) h f

/-- The capacity check refuses exactly what is above a finite capacity (42_parser.md R141). -/
theorem exceeds_iff (cap : Option Nat) (m : Nat) : exceeds cap m = true ↔ ∃ n, cap = some n ∧ m > n := by
  cases cap <;> simp [exceeds]

/-- Row 3 (R183): APPEND. -/
theorem response_fault_append_iff {cfg : Config} {data : Bytes} {s t : State} (h : execWith cfg (.append data) s = .next t)
    (f : Fault) :
    t.response = some (.fault f) ↔
      (∃ n, cfg.bufCap = some n ∧ s.buf.length + data.length > n) ∧ f = .bufOverflow (s.buf.length + data.length) := by
  rw [← exceeds_iff]
  exact response_fault_iff_of_row execWith_append_of_exceeds (fun hc => ⟨_, _, execWith_append_of_fits hc⟩) h f

/-- The commands without a row (R183) never fault. -/
theorem response_ne_fault_of_no_row {cfg : Config} {i : Instr}
    (hi : (∃ acc b, i = .crcStep acc b) ∨ (∃ data, i = .crc8 data) ∨ i = .tryParseOne ∨ i = .reset) {s t : State}
    (h : execWith cfg i s = .next t) (f : Fault) : t.response ≠ some (.fault f) := by
  rcases hi with ⟨acc, b, rfl⟩ | ⟨data, rfl⟩ | rfl | rfl <;>
    obtain rfl := (complete_next_iff _ _ _).1 h <;>
    simp

/-- No decoded command takes ILLEGAL_COMMAND: the three commands that fault have codes of their own. -/
theorem response_ne_illegalCommand_of_execWith {cfg : Config} {i : Instr} {s t : State} (h : execWith cfg i s = .next t) (op : Byte) :
    t.response ≠ some (.fault (.illegalCommand op)) := by
  cases i with
  | crcStep acc b => exact response_ne_fault_of_no_row (.inl ⟨acc, b, rfl⟩) h _
  | crc8 data => exact response_ne_fault_of_no_row (.inr (.inl ⟨data, rfl⟩)) h _
  | encode typeId payload => simp [response_fault_encode_iff h]
  | decodeValidated frame => simp [response_fault_decodeValidated_iff h]
  | append data => simp [response_fault_append_iff h]
  | tryParseOne => exact response_ne_fault_of_no_row (.inr (.inr (.inl rfl))) h _
  | reset => exact response_ne_fault_of_no_row (.inr (.inr (.inr rfl))) h _

/-- Row 4 (R183): the command decoder. A command that it accepts has no reserved opcode, and does not raise this fault itself. -/
theorem response_illegalCommand_iff {cfg : Config} {s t : State} {c : Command} {rest : List Command} (hp : s.pending = c :: rest)
    (h : stepWith cfg s = .next t) (f : Byte) :
    t.response = some (.fault (.illegalCommand f)) ↔ ReservedOpcode c.op ∧ f = c.op := by
  rw [← decode_eq_reserved_iff]
  rcases decode_cases c with ⟨_, e⟩ | ⟨_, _, _, e⟩ | ⟨_, i, _, _, e⟩
  · cases (issue_of_decode_reserved _ hp e).symm.trans h
    simp [e, eq_comm]
  · cases (issue_of_decode_malformed _ hp e).symm.trans h
  · have hrun := (issue_of_decode_instr _ hp e).symm.trans h
    simp [e, response_ne_illegalCommand_of_execWith hrun f]

/-- Settles O15, row by row; every command answers a next state, and the row says which fault that state reports. -/
theorem modelFaultTable : Obligations.ModelFaultTable := by
  refine ⟨fun n op => ⟨rfl, rfl, rfl, rfl⟩, fun cfg s => ⟨?encode, ?decodeValidated, ?append, ?decoder, ?others⟩⟩
  case encode =>
    intro typeId payload
    obtain ⟨t, h⟩ := execWith_eq_next cfg (.encode typeId payload) s
    exact ⟨t, h, response_fault_encode_iff h⟩
  case decodeValidated =>
    intro frame
    obtain ⟨t, h⟩ := execWith_eq_next cfg (.decodeValidated frame) s
    exact ⟨t, h, response_fault_decodeValidated_iff h⟩
  case append =>
    intro data
    obtain ⟨t, h⟩ := execWith_eq_next cfg (.append data) s
    exact ⟨t, h, response_fault_append_iff h⟩
  case decoder =>
    intro op operands rest hp t h
    exact response_illegalCommand_iff hp h
  case others =>
    intro i hi
    obtain ⟨t, h⟩ := execWith_eq_next cfg i s
    exact ⟨t, h, response_ne_fault_of_no_row hi h⟩

end Sys2Proof.Machine
end

section
/-! PROOFS, 70_reset_and_hazards.md: what construction and RESET leave (R200), and the base case of the capacity bound (R141). -/

namespace Sys2Proof.Machine

/-- A newly constructed parser holds no byte (R200). -/
@[simp] theorem reset_buf : State.reset.buf = [] := rfl

/-- Settles O10: RESET completes on the cleared buffer (`resetResult`), which is the buffer at construction, and writes no mark. -/
theorem resetState : Obligations.ResetState := by
  obtain ⟨hreset, -, -⟩ := resetResult
  exact ⟨reset_buf, rfl, fun s => ⟨_, hreset s, reset_buf.symm, rfl⟩⟩

/-- Settles O57: the empty buffer is within every capacity. This is the base case of `BufferStaysWithinCapacity`. -/
theorem resetIsWithinCapacity : Obligations.ResetIsWithinCapacity := by
  intro cfg n _
  rw [reset_buf]
  exact Nat.zero_le n

end Sys2Proof.Machine
end
